-- ==== Sys2Proof/Word.lean ====
section
/-! DEFINITION. The units of the wire: the 8-bit byte and the 16-bit raw concentration (spec/00_scope.md R9). -/

namespace Sys2Proof

/-- A byte: an unsigned integer 0..255, bit 7 most significant (R9). -/
abbrev Byte := BitVec 8

/-- A raw concentration: 16 bits, unsigned, in tenths of a microgram per cubic metre (R80). -/
abbrev Word16 := BitVec 16

end Sys2Proof
end

