-- ==== Sys2Proof/Syntax.lean ====
section
/-! DEFINITION. The 22 rows of spec/opcode_table.json as one inductive, and the types of their operands and
results. Six rows are command frames (format CMD19), two are response frames (RSP10), fourteen are the operations
the host may ask of the engine (HOSTOP); spec/30_encoding.md R55, R58, R67, R69. -/

namespace Sys2Proof

/-- The closed set of command ids (R61, R63): the operand type itself admits no other value. -/
inductive CmdId where
  | modeSet
  | queryData
  | deviceId
  | sleep
  | firmware
  | workingPeriod
  deriving DecidableEq, Repr

/-- A ResponseFrame as DECODE_RESPONSE returns it (R78): offsets 1 to 9 of the 10-byte frame. `d0` to `d3` are
`data[0..3]`, `id0` and `id1` the two opaque device-id bytes. -/
structure ResponseFrame where
  rtype    : Byte
  d0       : Byte
  d1       : Byte
  d2       : Byte
  d3       : Byte
  id0      : Byte
  id1      : Byte
  checksum : Byte
  tail     : Byte
  deriving DecidableEq, Repr

/-- The class of a response type byte (R62). -/
inductive ResponseClass where
  | dataReport
  | commandEcho
  | other
  deriving DecidableEq, Repr

/-- The bytes of a 19-byte command frame that its opcode-table row leaves open (R55, R69): offsets 3..14, 15, 16
and 17. -/
structure CommandFields where
  payload  : List Byte
  dest0    : Byte
  dest1    : Byte
  checksum : Byte
  deriving DecidableEq, Repr

/-- The bytes of a 10-byte response frame that its opcode-table row leaves open (R58, R69): offsets 2 to 8. -/
structure ReportFields where
  d0       : Byte
  d1       : Byte
  d2       : Byte
  d3       : Byte
  id0      : Byte
  id1      : Byte
  checksum : Byte
  deriving DecidableEq, Repr

/-- A Measurement: the two raw integers of a data report (R80). -/
structure Measurement where
  pm25Raw : Word16
  pm10Raw : Word16
  deriving DecidableEq, Repr

/-- An AggregatedSample: the two medians as concentrations, exact rationals, and the time stamp (R117). -/
structure AggregatedSample where
  pm25      : Rat
  pm10      : Rat
  timestamp : Rat
  deriving DecidableEq, Repr

/-- The failure codes, complete (spec/60_exceptions.md R130). `ok` is code 0, no failure. -/
inductive FailCode where
  | ok
  | constructionError
  | noHeader
  | truncated
  | badChecksum
  | badTail
  | notDataReport
  | echoInvalid
  | incompleteBatch
  deriving DecidableEq, Repr

/-- One constructor per row of spec/opcode_table.json, in the table's order. -/
inductive Instr where
  /-- CMD_MODE_SET, the frame SET_REPORT_MODE sends (R97). -/
  | cmdModeSet (f : CommandFields)
  /-- CMD_QUERY_DATA, the frame QUERY sends (R99). -/
  | cmdQueryData (f : CommandFields)
  /-- CMD_DEVICE_ID, the frame DEVICE_ID sends (R102). -/
  | cmdDeviceId (f : CommandFields)
  /-- CMD_SLEEP, the frame SET_SLEEP sends (R98). -/
  | cmdSleep (f : CommandFields)
  /-- CMD_FIRMWARE, the frame READ_FIRMWARE sends (R101). -/
  | cmdFirmware (f : CommandFields)
  /-- CMD_WORKING_PERIOD, the frame SET_WORKING_PERIOD sends (R100). -/
  | cmdWorkingPeriod (f : CommandFields)
  /-- DATA_REPORT, a response frame of type 0xC0 (R78, R79). -/
  | dataReport (f : ReportFields)
  /-- COMMAND_ECHO, a response frame of type 0xC5 (R78, R96). -/
  | commandEcho (f : ReportFields)
  /-- ENCODE_COMMAND id, p (R77). -/
  | encodeCommand (id : CmdId) (p : List Byte)
  /-- DECODE_RESPONSE body (R78). -/
  | decodeResponse (body : List Byte)
  /-- DECODE_MEASUREMENT f (R79). -/
  | decodeMeasurement (f : ResponseFrame)
  /-- RECEIVE_FRAME (R92). -/
  | receiveFrame
  /-- SET_REPORT_MODE active (R97). -/
  | setReportMode (active : Bool)
  /-- SET_SLEEP sleep (R98). -/
  | setSleep (sleep : Bool)
  /-- QUERY (R99). -/
  | query
  /-- SET_WORKING_PERIOD p (R100). -/
  | setWorkingPeriod (p : Byte)
  /-- READ_FIRMWARE (R101). -/
  | readFirmware
  /-- DEVICE_ID a, `a` the argument of PL_DEVICE_ID, `n` bytes: two with the default payload (R102). -/
  | deviceId (n : Nat) (a : Vector Byte n)
  /-- RESYNCHRONIZE (R104). -/
  | resynchronize
  /-- RUN_CYCLE (R110). -/
  | runCycle
  /-- MEDIAN v (R115). -/
  | median (v : List Word16)
  /-- NEXT_WAKE_DELAY n (R119). -/
  | nextWakeDelay (n : Rat)
  deriving DecidableEq, Repr

/-! The pseudo-operations of R71 are abbreviations and nothing more. -/

/-- `WAKE` = `SET_SLEEP false` (R71). -/
abbrev Instr.wake : Instr := .setSleep false
/-- `SLEEP` = `SET_SLEEP true` (R71). -/
abbrev Instr.goToSleep : Instr := .setSleep true
/-- `MODE_QUERY` = `SET_REPORT_MODE false` (R71). -/
abbrev Instr.modeQuery : Instr := .setReportMode false
/-- `MODE_ACTIVE` = `SET_REPORT_MODE true` (R71). -/
abbrev Instr.modeActive : Instr := .setReportMode true

end Sys2Proof
end

