-- ==== Sys2Proof/Config.lean ====
section
/-! DEFINITION. The fixed constants of the wire protocol (spec/00_scope.md R5) and the configuration CFG (R6, R7,
R8, R11): what the host sets before reset is released and no operation writes. -/

namespace Sys2Proof

/-- HEADER, the first byte of every frame, both directions (R5). -/
def header : Byte := 0xAA
/-- DEV_ADDR, the second byte of every command frame (R5). -/
def devAddr : Byte := 0xB4
/-- TAIL, the last byte of every frame, both directions (R5). -/
def tailByte : Byte := 0xAB
/-- CMD_LEN (R5). -/
def cmdLen : Nat := 19
/-- RSP_LEN (R5). -/
def rspLen : Nat := 10
/-- PAYLOAD_MAX (R5). -/
def payloadMax : Nat := 12
/-- TYPE_DATA (R5, R62). -/
def typeData : Byte := 0xC0
/-- TYPE_ECHO (R5, R62). -/
def typeEcho : Byte := 0xC5
/-- BAUD: informational, no rule depends on it (R5). -/
def baud : Nat := 9600

/-- One byte of a payload template: a constant, or the operand's byte number `k`. -/
inductive PayloadItem where
  | const (b : Byte)
  | arg (k : Nat)
  deriving DecidableEq, Repr

/-- A payload parameter that is a function of an operand (PL_WORKING_PERIOD, PL_DEVICE_ID of R8), as plain data:
`lengths` are the numbers of bytes an argument may have; the arguments listed in `table` have the payload listed
there, every other argument the template's. Any function from the arguments of finitely many lengths to byte lists is
of this form (DESIGN CHOICE, safe, log entry 4). -/
structure PayloadFn where
  lengths  : List Nat
  table    : List (List Byte × List Byte)
  template : List PayloadItem
  deriving DecidableEq, Repr

/-- CFG (R6, R7, R8, R11). Times are exact rationals in units of TICK. -/
structure Cfg where
  /-- N_SAMPLES >= 1 (R6). -/
  nSamples : Nat
  /-- PERIOD > 0 (R6). -/
  period : Rat
  /-- T_READ > 0 (R6): no rule computes with it. -/
  tRead : Rat
  /-- DEST_ID[0] (R6). -/
  dest0 : Byte
  /-- DEST_ID[1] (R6). -/
  dest1 : Byte
  /-- DEVICE_PATH: opaque, read by no rule of the engine (R6). -/
  devicePath : String
  /-- T_SETTLE (R7): no rule computes with it. -/
  tSettle : Rat
  /-- T_INTERSAMPLE (R7): no rule computes with it. -/
  tInterSample : Rat
  /-- T_RECOVERY (R7): no rule computes with it. -/
  tRecovery : Rat
  /-- TICK, the unit of every time, in seconds (R8): no rule computes with it. -/
  tick : Rat
  /-- SCAN_MAX: the number of noise bytes one header scan tolerates, or no bound (R8, R45). -/
  scanMax : Option Nat
  /-- ECHO_ID_CHECK (R8, R96). -/
  echoIdCheck : Bool
  /-- PL_MODE_ACTIVE (R95). -/
  plModeActive : List Byte
  /-- PL_MODE_QUERY (R95). -/
  plModeQuery : List Byte
  /-- PL_SLEEP (R95). -/
  plSleep : List Byte
  /-- PL_WAKE (R95). -/
  plWake : List Byte
  /-- PL_QUERY (R95). -/
  plQuery : List Byte
  /-- PL_FIRMWARE (R95). -/
  plFirmware : List Byte
  /-- PL_WORKING_PERIOD(p) (R95). -/
  plWorkingPeriod : PayloadFn
  /-- PL_DEVICE_ID(a) (R95, R102): its arguments are what CFG says, two bytes by default. -/
  plDeviceId : PayloadFn
  deriving DecidableEq, Repr

/-- The values of this hardware: the defaults of R6 and R8, the payloads of R95 (PRESUMED, unsafe, log entry 19: the sensor's published protocol). T_READ and the three delays have no
value in the spec: 1 and 0 (DESIGN CHOICE, safe, log entry 3), which no rule reads. -/
def Cfg.default : Cfg where
  nSamples := 10
  period := 300
  tRead := 1
  dest0 := 0xFF
  dest1 := 0xFF
  devicePath := ""
  tSettle := 0
  tInterSample := 0
  tRecovery := 0
  tick := 1
  scanMax := none
  echoIdCheck := false
  plModeActive := [0x01, 0x00]
  plModeQuery := [0x01, 0x01]
  plSleep := [0x01, 0x00]
  plWake := [0x01, 0x01]
  plQuery := []
  plFirmware := []
  plWorkingPeriod := { lengths := [1], table := [], template := [.const 0x01, .arg 0] }
  plDeviceId := { lengths := [2], table := [], template := List.replicate 10 (.const 0x00) ++ [.arg 0, .arg 1] }

end Sys2Proof
end

