-- ==== Sys2Proof/Machine/Flags.lean ====
section
/-! DEFINITION. The integrity bytes and the checks: what stands where a processor has its flags
(spec/10_state.md R20: no flag register; each operation reports a code). -/

namespace Sys2Proof.Machine

/-- The wire value of a command id (R61). -/
def cmdIdByte : CmdId → Byte
  | .modeSet => 2
  | .queryData => 4
  | .deviceId => 5
  | .sleep => 6
  | .firmware => 7
  | .workingPeriod => 8

/-- `sum8`: the sum of all bytes as natural numbers, mod 256 (R9). -/
def sum8 (s : List Byte) : Byte := BitVec.ofNat 8 (s.map BitVec.toNat).sum

/-- `cmd_checksum(id, q, d)` (R56, R76): the command id, the padded payload and the two destination bytes. -/
def cmdChecksum (id : CmdId) (q : List Byte) (dest0 dest1 : Byte) : Byte :=
  sum8 (cmdIdByte id :: (q ++ [dest0, dest1]))

/-- `rsp_checksum(f)` (R59, R76): the six bytes at offsets 2 to 7. -/
def rspChecksum (d0 d1 d2 d3 id0 id1 : Byte) : Byte := sum8 [d0, d1, d2, d3, id0, id1]

/-- The class of a response type byte (R62). -/
def classify (rtype : Byte) : ResponseClass :=
  if rtype = typeData then .dataReport
  else if rtype = typeEcho then .commandEcho
  else .other

/-- `echo_ok(r, id)` (R96): a valid frame of type 0xC5, and with ECHO_ID_CHECK its first data byte is the command
id. -/
def echoOk (cfg : Cfg) (r : Option ResponseFrame) (id : CmdId) : Bool :=
  match r with
  | none => false
  | some f => decide (f.rtype = typeEcho) && (!cfg.echoIdCheck || decide (f.d0 = cmdIdByte id))

/-- The numbers of the failure codes (R130). -/
def failNumber : FailCode → Nat
  | .ok => 0
  | .constructionError => 1
  | .noHeader => 2
  | .truncated => 3
  | .badChecksum => 4
  | .badTail => 5
  | .notDataReport => 6
  | .echoInvalid => 7
  | .incompleteBatch => 8

end Sys2Proof.Machine
end

