-- ==== Sys2Proof/Machine/Operands.lean ====
section
/-! DEFINITION. The operand forms: payload assembly, the payload parameters applied to an operation's operands, and
the fields of a frame (spec/30_encoding.md R55 to R60, spec/41_device_session.md R95). -/

namespace Sys2Proof.Machine

/-- The six command ids, in the order of the opcode table. -/
def allCmdIds : List CmdId := [.modeSet, .queryData, .deviceId, .sleep, .firmware, .workingPeriod]

/-- `pad12(p)` (R57): the caller's bytes first, then zero bytes up to twelve. -/
def pad12 (p : List Byte) : List Byte := p ++ List.replicate (payloadMax - p.length) 0

/-- `le16(lo, hi) = lo + 256 * hi` (R9, R60). -/
def le16 (lo hi : Byte) : Word16 := BitVec.ofNat 16 (lo.toNat + 256 * hi.toNat)

/-- One template item with the operand's bytes put in. -/
def itemByte (a : List Byte) : PayloadItem → Byte
  | .const b => b
  | .arg k => a.getD k 0

/-- Does the payload function take arguments of `n` bytes? -/
def payloadTakes (f : PayloadFn) (n : Nat) : Bool := decide (n ∈ f.lengths)

/-- A payload function applied to one of its arguments: the table first, the template otherwise. -/
def payloadOf (f : PayloadFn) (a : List Byte) : List Byte :=
  match f.table.find? (fun row => row.1 == a) with
  | some row => row.2
  | none => f.template.map (itemByte a)

/-- The payload of SET_REPORT_MODE active (R97). -/
def modePayload (cfg : Cfg) (active : Bool) : List Byte := if active then cfg.plModeActive else cfg.plModeQuery

/-- The payload of SET_SLEEP sleep (R98). -/
def sleepPayload (cfg : Cfg) (sleep : Bool) : List Byte := if sleep then cfg.plSleep else cfg.plWake

/-- Which boolean operand a 12-byte payload field stands for, given the two parameters' payloads: the one whose
padded payload it is, and none where it is neither's or both's (DESIGN CHOICE, unsafe, log entry 8). -/
def operandOf (ifTrue ifFalse payload : List Byte) : Option Bool :=
  match decide (payload = pad12 ifTrue), decide (payload = pad12 ifFalse) with
  | true, false => some true
  | false, true => some false
  | _, _ => none

/-- The bytes of a command frame (R55): header, device address, command id, payload field, destination, checksum,
tail. -/
def commandBytes (id : CmdId) (f : CommandFields) : List Byte :=
  [header, devAddr, cmdIdByte id] ++ f.payload ++ [f.dest0, f.dest1, f.checksum, tailByte]

/-- The bytes after the header of a response frame of type `rtype` (R58). -/
def reportBody (rtype : Byte) (f : ReportFields) : List Byte :=
  [rtype, f.d0, f.d1, f.d2, f.d3, f.id0, f.id1, f.checksum, tailByte]

/-- The body of a ResponseFrame: offsets 1 to 9 of its 10 bytes (R58, R78). -/
def frameBody (f : ResponseFrame) : List Byte :=
  [f.rtype, f.d0, f.d1, f.d2, f.d3, f.id0, f.id1, f.checksum, f.tail]

/-- The ResponseFrame whose checksum and tail are the ones DECODE_RESPONSE accepts (R59, R78). -/
def sealedFrame (rtype d0 d1 d2 d3 id0 id1 : Byte) : ResponseFrame where
  rtype := rtype
  d0 := d0
  d1 := d1
  d2 := d2
  d3 := d3
  id0 := id0
  id1 := id1
  checksum := rspChecksum d0 d1 d2 d3 id0 id1
  tail := tailByte

/-- Legal payload functions (R8, R11): every payload has length <= 12, and the template names bytes that every
argument has. -/
def payloadFnLegal (f : PayloadFn) : Bool :=
  decide (f.template.length ≤ payloadMax) && f.table.all (fun row => decide (row.2.length ≤ payloadMax)) &&
    f.template.all (fun item => match item with
      | .const _ => true
      | .arg k => f.lengths.all (fun n => decide (k < n)))

/-- The legal values of CFG (R11). PL_WORKING_PERIOD takes one byte (R100). -/
def cfgLegal (cfg : Cfg) : Bool :=
  decide (1 ≤ cfg.nSamples) && decide (0 < cfg.period.num) && decide (0 < cfg.tRead.num) &&
    [cfg.plModeActive, cfg.plModeQuery, cfg.plSleep, cfg.plWake, cfg.plQuery, cfg.plFirmware].all
      (fun p => decide (p.length ≤ payloadMax)) &&
    (decide (cfg.plWorkingPeriod.lengths = [1]) && payloadFnLegal cfg.plWorkingPeriod) && payloadFnLegal cfg.plDeviceId

end Sys2Proof.Machine
end

