-- ==== Sys2Proof/WellFormed.lean ====
section
/-! DEFINITION. Which terms of Instr are instructions of the opcode table: the shape of a frame row's payload field,
and the operand conditions of R79, R115 and R119. -/

namespace Sys2Proof

/-- The payload field of a command frame is exactly twelve bytes (R55). -/
def CommandFields.wellFormed (f : CommandFields) : Bool := decide (f.payload.length = payloadMax)

/-- A ResponseFrame operand is "a value DECODE_RESPONSE returned; so its checksum and tail are already known good"
(R79). -/
def ResponseFrame.wellFormed (f : ResponseFrame) : Bool :=
  decide (f.checksum = Machine.rspChecksum f.d0 f.d1 f.d2 f.d3 f.id0 f.id1) && decide (f.tail = tailByte)

/-- Well-formed instructions. The other conditions of the spec (the closed command ids of R61, a byte, a boolean) are
in the operand types. -/
def Instr.wellFormed : Instr → Bool
  | .cmdModeSet f => f.wellFormed
  | .cmdQueryData f => f.wellFormed
  | .cmdDeviceId f => f.wellFormed
  | .cmdSleep f => f.wellFormed
  | .cmdFirmware f => f.wellFormed
  | .cmdWorkingPeriod f => f.wellFormed
  | .dataReport _ => true
  | .commandEcho _ => true
  | .encodeCommand _ _ => true
  | .decodeResponse _ => true
  | .decodeMeasurement f => f.wellFormed
  | .receiveFrame => true
  | .setReportMode _ => true
  | .setSleep _ => true
  | .query => true
  | .setWorkingPeriod _ => true
  | .readFirmware => true
  | .deviceId _ _ => true
  | .resynchronize => true
  | .runCycle => true
  | .median v => !v.isEmpty
  | .nextWakeDelay n => decide (0 ≤ n.num)

end Sys2Proof
end

