-- ==== Sys2Proof/Decode.lean ====
section
/-! DEFINITION. From words to instructions and back. A word is the bytes of one request in the order they are
presented. A frame row's word is the frame itself (R55, R58, R69). A host operation's word is one byte with its
4-bit code of R67 (bits 7..4 zero), then its operands; the spec gives the codes and not how operands are written,
so the operands' form is this model's (DESIGN CHOICE, unsafe, log entry 5): a byte is itself; a boolean is 00 or 01; a command id is its
place 0..5 in the opcode table; a byte list is 01 before each element and 00 at the end; a MEDIAN operand is its
first value (low byte first) and then a list of the others in the same way; a time is two naturals, its numerator
and its denominator less one, each the list of its base-256 digits, lowest first. After the operands a word may
hold zero bytes and nothing else. -/

namespace Sys2Proof

/-- Why a word is no instruction. -/
inductive Reject where
  /-- No byte at all. -/
  | emptyWord
  /-- The first byte is neither a host code nor the header of a frame. -/
  | notARequest (b : Byte)
  /-- Host codes 0xE and 0xF name no operation (R68). -/
  | unassignedCode (b : Byte)
  /-- The word ends before its operands do. -/
  | truncatedWord
  /-- A command-id operand outside the closed set (R63). -/
  | badCommandId (b : Byte)
  /-- A boolean operand that is neither 00 nor 01. -/
  | badBoolean (b : Byte)
  /-- A list operand with a byte other than 00 or 01 where its end or its next element is announced. -/
  | badListMark (b : Byte)
  /-- A frame that is no row of the table: wrong device address, command id outside R61, response type outside R62,
  wrong tail, or a byte missing. -/
  | badFrame
  /-- A byte other than zero after the operands. -/
  | trailingBytes
  deriving DecidableEq, Repr

namespace Decode

/-! ### Operand readers: each answers the operand and the bytes left. -/

/-- A boolean operand. -/
def readBool : List Byte → Except Reject (Bool × List Byte)
  | [] => .error .truncatedWord
  | b :: rest =>
    if b = 0 then .ok (false, rest) else if b = 1 then .ok (true, rest) else .error (.badBoolean b)

/-- The command id at place `k` of the table. -/
def cmdIdAt (k : Nat) : Option CmdId := Machine.allCmdIds[k]?

/-- A command-id operand. -/
def readCmdId : List Byte → Except Reject (CmdId × List Byte)
  | [] => .error .truncatedWord
  | b :: rest =>
    match cmdIdAt b.toNat with
    | some id => .ok (id, rest)
    | none => .error (.badCommandId b)

/-- A byte-list operand: 01 before each element, 00 at the end. -/
def readBytes : List Byte → Except Reject (List Byte × List Byte)
  | [] => .error .truncatedWord
  | [m] => if m = 0 then .ok ([], []) else if m = 1 then .error .truncatedWord else .error (.badListMark m)
  | m :: b :: rest =>
    if m = 0 then .ok ([], b :: rest)
    else if m = 1 then
      match readBytes rest with
      | .ok r => .ok (b :: r.1, r.2)
      | .error e => .error e
    else .error (.badListMark m)

/-- A list of 16-bit values, each low byte first. -/
def readWords : List Byte → Except Reject (List Word16 × List Byte)
  | [] => .error .truncatedWord
  | m :: lo :: hi :: rest =>
    if m = 0 then .ok ([], lo :: hi :: rest)
    else if m = 1 then
      match readWords rest with
      | .ok r => .ok (Machine.le16 lo hi :: r.1, r.2)
      | .error e => .error e
    else .error (.badListMark m)
  | m :: rest => if m = 0 then .ok ([], rest) else if m = 1 then .error .truncatedWord else .error (.badListMark m)

/-- The natural number with these base-256 digits, lowest first. -/
def natOfBytes : List Byte → Nat
  | [] => 0
  | b :: bs => b.toNat + 256 * natOfBytes bs

/-- A time operand: numerator, then denominator less one. -/
def readTime (bs : List Byte) : Except Reject (Rat × List Byte) :=
  match readBytes bs with
  | .error e => .error e
  | .ok r =>
    match readBytes r.2 with
    | .error e => .error e
    | .ok r' => .ok (mkRat (natOfBytes r.1) (natOfBytes r'.1 + 1), r'.2)

/-! ### Frames (R55, R58, R69): `bs` is what follows the header byte. -/

/-- The row of a command frame by its command-id byte (R61). -/
def commandRow (id : Byte) (f : CommandFields) : Option Instr :=
  if id = 2 then some (.cmdModeSet f)
  else if id = 4 then some (.cmdQueryData f)
  else if id = 5 then some (.cmdDeviceId f)
  else if id = 6 then some (.cmdSleep f)
  else if id = 7 then some (.cmdFirmware f)
  else if id = 8 then some (.cmdWorkingPeriod f)
  else none

/-- The row of a response frame by its type byte (R62). -/
def responseRow (rtype : Byte) (f : ReportFields) : Option Instr :=
  match Machine.classify rtype with
  | .dataReport => some (.dataReport f)
  | .commandEcho => some (.commandEcho f)
  | .other => none

/-- A command frame after its header and device address. -/
def readCommand : List Byte → Except Reject (Instr × List Byte)
  | id :: p0 :: p1 :: p2 :: p3 :: p4 :: p5 :: p6 :: p7 :: p8 :: p9 :: p10 :: p11 :: e0 :: e1 :: cs :: tl :: rest =>
    if tl = tailByte then
      match commandRow id ⟨[p0, p1, p2, p3, p4, p5, p6, p7, p8, p9, p10, p11], e0, e1, cs⟩ with
      | some i => .ok (i, rest)
      | none => .error .badFrame
    else .error .badFrame
  | _ => .error .badFrame

/-- A response frame after its header; its first byte is the response type. -/
def readResponse : List Byte → Except Reject (Instr × List Byte)
  | ty :: d0 :: d1 :: d2 :: d3 :: i0 :: i1 :: cs :: tl :: rest =>
    if tl = tailByte then
      match responseRow ty ⟨d0, d1, d2, d3, i0, i1, cs⟩ with
      | some i => .ok (i, rest)
      | none => .error .badFrame
    else .error .badFrame
  | _ => .error .badFrame

/-- A frame after its header: the device address tells the two directions apart (R55, R58). -/
def readFrame : List Byte → Except Reject (Instr × List Byte)
  | [] => .error .badFrame
  | b :: rest => if b = devAddr then readCommand rest else readResponse (b :: rest)

/-! ### Host operations (R67): `bs` is what follows the code byte. -/

/-- ENCODE_COMMAND id, p. -/
def readEncodeCommand (bs : List Byte) : Except Reject (Instr × List Byte) :=
  match readCmdId bs with
  | .error e => .error e
  | .ok r =>
    match readBytes r.2 with
    | .error e => .error e
    | .ok r' => .ok (.encodeCommand r.1 r'.1, r'.2)

/-- DECODE_RESPONSE body. -/
def readDecodeResponse (bs : List Byte) : Except Reject (Instr × List Byte) :=
  match readBytes bs with
  | .error e => .error e
  | .ok r => .ok (.decodeResponse r.1, r.2)

/-- DECODE_MEASUREMENT f: type, data and device id; checksum and tail are the good ones (R79). -/
def readDecodeMeasurement : List Byte → Except Reject (Instr × List Byte)
  | ty :: d0 :: d1 :: d2 :: d3 :: i0 :: i1 :: rest =>
    .ok (.decodeMeasurement (Machine.sealedFrame ty d0 d1 d2 d3 i0 i1), rest)
  | _ => .error .truncatedWord

/-- An operation with one boolean operand. -/
def readBoolOp (op : Bool → Instr) (bs : List Byte) : Except Reject (Instr × List Byte) :=
  match readBool bs with
  | .error e => .error e
  | .ok r => .ok (op r.1, r.2)

/-- SET_WORKING_PERIOD p. -/
def readSetWorkingPeriod : List Byte → Except Reject (Instr × List Byte)
  | p :: rest => .ok (.setWorkingPeriod p, rest)
  | [] => .error .truncatedWord

/-- DEVICE_ID of these bytes. -/
def deviceIdOf (a : List Byte) : Instr := .deviceId a.length ⟨a.toArray, rfl⟩

/-- DEVICE_ID a: 00 before an argument of two bytes, 01 before one of any length, a byte list (log entry 5). -/
def readDeviceId : List Byte → Except Reject (Instr × List Byte)
  | [] => .error .truncatedWord
  | m :: rest =>
    if m = 0 then
      match rest with
      | a0 :: a1 :: rest' => .ok (deviceIdOf [a0, a1], rest')
      | _ => .error .truncatedWord
    else if m = 1 then
      match readBytes rest with
      | .ok r => .ok (deviceIdOf r.1, r.2)
      | .error e => .error e
    else .error (.badListMark m)

/-- MEDIAN v: the first value, then the others. -/
def readMedian : List Byte → Except Reject (Instr × List Byte)
  | lo :: hi :: rest =>
    match readWords rest with
    | .error e => .error e
    | .ok r => .ok (.median (Machine.le16 lo hi :: r.1), r.2)
  | _ => .error .truncatedWord

/-- NEXT_WAKE_DELAY n. -/
def readNextWakeDelay (bs : List Byte) : Except Reject (Instr × List Byte) :=
  match readTime bs with
  | .error e => .error e
  | .ok r => .ok (.nextWakeDelay r.1, r.2)

/-- One instruction at the front of a word, and the bytes after it. -/
def readInstr : List Byte → Except Reject (Instr × List Byte)
  | [] => .error .emptyWord
  | c :: rest =>
    match c.toNat with
    | 0x0 => readEncodeCommand rest
    | 0x1 => readDecodeResponse rest
    | 0x2 => readDecodeMeasurement rest
    | 0x3 => .ok (.receiveFrame, rest)
    | 0x4 => readBoolOp .setReportMode rest
    | 0x5 => readBoolOp .setSleep rest
    | 0x6 => .ok (.query, rest)
    | 0x7 => readSetWorkingPeriod rest
    | 0x8 => .ok (.readFirmware, rest)
    | 0x9 => readDeviceId rest
    | 0xA => .ok (.resynchronize, rest)
    | 0xB => .ok (.runCycle, rest)
    | 0xC => readMedian rest
    | 0xD => readNextWakeDelay rest
    | 0xE => .error (.unassignedCode c)
    | 0xF => .error (.unassignedCode c)
    | 0xAA => readFrame rest
    | _ => .error (.notARequest c)

end Decode

/-- The decoder: total on any bytes, rejecting by name. -/
def decode (word : List Byte) : Except Reject Instr :=
  match Decode.readInstr word with
  | .error e => .error e
  | .ok r => if r.2.all (fun b => decide (b = 0)) then .ok r.1 else .error .trailingBytes

/-! ### The encoder -/

namespace Encode

/-- A boolean operand. -/
def bool (b : Bool) : List Byte := [if b then 1 else 0]

/-- A command-id operand: its place in the table. -/
def cmdId : CmdId → List Byte
  | .modeSet => [0]
  | .queryData => [1]
  | .deviceId => [2]
  | .sleep => [3]
  | .firmware => [4]
  | .workingPeriod => [5]

/-- A byte-list operand. -/
def bytes : List Byte → List Byte
  | [] => [0]
  | b :: bs => 1 :: b :: bytes bs

/-- A DEVICE_ID argument: the short form for two bytes, a byte list otherwise. -/
def deviceIdArgument : List Byte → List Byte
  | [a0, a1] => [0, a0, a1]
  | a => 1 :: bytes a

/-- The low byte, then the high byte. -/
def word16 (v : Word16) : List Byte := [v.setWidth 8, (v >>> 8).setWidth 8]

/-- The values of a MEDIAN operand after the first. -/
def words : List Word16 → List Byte
  | [] => [0]
  | v :: vs => 1 :: (word16 v ++ words vs)

/-- A natural number: its base-256 digits, lowest first. -/
def nat (n : Nat) : List Byte := bytes ((Nat.digits 256 n).map (BitVec.ofNat 8))

/-- A time operand. -/
def time (n : Rat) : List Byte := nat n.num.toNat ++ nat (n.den - 1)

end Encode

/-- The word of a well-formed instruction. -/
def encode : Instr → List Byte
  | .cmdModeSet f => Machine.commandBytes .modeSet f
  | .cmdQueryData f => Machine.commandBytes .queryData f
  | .cmdDeviceId f => Machine.commandBytes .deviceId f
  | .cmdSleep f => Machine.commandBytes .sleep f
  | .cmdFirmware f => Machine.commandBytes .firmware f
  | .cmdWorkingPeriod f => Machine.commandBytes .workingPeriod f
  | .dataReport f => header :: Machine.reportBody typeData f
  | .commandEcho f => header :: Machine.reportBody typeEcho f
  | .encodeCommand id p => 0x00 :: (Encode.cmdId id ++ Encode.bytes p)
  | .decodeResponse body => 0x01 :: Encode.bytes body
  | .decodeMeasurement f => [0x02, f.rtype, f.d0, f.d1, f.d2, f.d3, f.id0, f.id1]
  | .receiveFrame => [0x03]
  | .setReportMode active => 0x04 :: Encode.bool active
  | .setSleep sleep => 0x05 :: Encode.bool sleep
  | .query => [0x06]
  | .setWorkingPeriod p => [0x07, p]
  | .readFirmware => [0x08]
  | .deviceId _ a => 0x09 :: Encode.deviceIdArgument a.toList
  | .resynchronize => [0x0A]
  | .runCycle => [0x0B]
  | .median v => 0x0C :: (Encode.word16 (v.headD 0) ++ Encode.words v.tail)
  | .nextWakeDelay n => 0x0D :: Encode.time n

/-! ### The opcode table's rows -/

/-- A row of spec/opcode_table.json: the bytes a word of the row has under the row's mask, byte by byte (R69). A host
operation's row is its code, in one byte. -/
structure TableRow where
  mnemonic : String
  matchBits : List Byte
  mask : List Byte
  deriving DecidableEq, Repr

/-- A word is of a row when it has the row's bytes under the row's mask (R69); bytes after the row's are operands. -/
def TableRow.fits (r : TableRow) (word : List Byte) : Bool :=
  decide (r.mask.length ≤ word.length) && decide (List.zipWith (· &&& ·) word r.mask = r.matchBits)

/-- The row of a command frame: offsets 0, 1, 2 and 18 under the mask. -/
def commandTableRow (mnemonic : String) (id : Byte) : TableRow where
  mnemonic := mnemonic
  matchBits := [0xAA, 0xB4, id] ++ List.replicate 15 0x00 ++ [0xAB]
  mask := [0xFF, 0xFF, 0xFF] ++ List.replicate 15 0x00 ++ [0xFF]

/-- The row of a response frame: offsets 0, 1 and 9 under the mask. -/
def responseTableRow (mnemonic : String) (rtype : Byte) : TableRow where
  mnemonic := mnemonic
  matchBits := [0xAA, rtype] ++ List.replicate 7 0x00 ++ [0xAB]
  mask := [0xFF, 0xFF] ++ List.replicate 7 0x00 ++ [0xFF]

/-- The row of a host operation: its code, all eight bits of the first byte. -/
def hostTableRow (mnemonic : String) (code : Byte) : TableRow where
  mnemonic := mnemonic
  matchBits := [code]
  mask := [0xFF]

/-- The row each constructor stands for. -/
def Instr.row : Instr → TableRow
  | .cmdModeSet _ => commandTableRow "CMD_MODE_SET" 0x02
  | .cmdQueryData _ => commandTableRow "CMD_QUERY_DATA" 0x04
  | .cmdDeviceId _ => commandTableRow "CMD_DEVICE_ID" 0x05
  | .cmdSleep _ => commandTableRow "CMD_SLEEP" 0x06
  | .cmdFirmware _ => commandTableRow "CMD_FIRMWARE" 0x07
  | .cmdWorkingPeriod _ => commandTableRow "CMD_WORKING_PERIOD" 0x08
  | .dataReport _ => responseTableRow "DATA_REPORT" 0xC0
  | .commandEcho _ => responseTableRow "COMMAND_ECHO" 0xC5
  | .encodeCommand _ _ => hostTableRow "ENCODE_COMMAND" 0x00
  | .decodeResponse _ => hostTableRow "DECODE_RESPONSE" 0x01
  | .decodeMeasurement _ => hostTableRow "DECODE_MEASUREMENT" 0x02
  | .receiveFrame => hostTableRow "RECEIVE_FRAME" 0x03
  | .setReportMode _ => hostTableRow "SET_REPORT_MODE" 0x04
  | .setSleep _ => hostTableRow "SET_SLEEP" 0x05
  | .query => hostTableRow "QUERY" 0x06
  | .setWorkingPeriod _ => hostTableRow "SET_WORKING_PERIOD" 0x07
  | .readFirmware => hostTableRow "READ_FIRMWARE" 0x08
  | .deviceId _ _ => hostTableRow "DEVICE_ID" 0x09
  | .resynchronize => hostTableRow "RESYNCHRONIZE" 0x0A
  | .runCycle => hostTableRow "RUN_CYCLE" 0x0B
  | .median _ => hostTableRow "MEDIAN" 0x0C
  | .nextWakeDelay _ => hostTableRow "NEXT_WAKE_DELAY" 0x0D

/-! ### A word given as one number -/

/-- The zero bytes laid after a table word: more than any all-zero operand takes. -/
def zeroOperands : List Byte := List.replicate 32 0

/-- The bytes of a number of `nbits` bits, lowest first. -/
def numberBytes (nbits w : Nat) : List Byte :=
  (List.range ((nbits + 7) / 8)).map (fun k => BitVec.ofNat 8 (w >>> (8 * k)))

/-- The bytes of a word of `nbits` bits numbered from the least significant bit of the first byte, then operand
bytes of zeros. No word begins with 0xAB: a number with 0xAB lowest and 0xAA on top is a frame's hexadecimal string of
the table (wire order, R69) read as one number, and is laid out in wire order too (DESIGN CHOICE, safe,
log entry 12). -/
def tableBytes (nbits w : Nat) : List Byte :=
  let bs := numberBytes nbits w
  (if bs.head? = some tailByte ∧ bs.getLast? = some header then bs.reverse else bs) ++ zeroOperands

/-- The instruction the decoder reads from a word given as one number. -/
def decodeTableWord (nbits w : Nat) : Option Instr :=
  match decode (tableBytes nbits w) with
  | .ok i => some i
  | .error _ => none

end Sys2Proof
end

