-- ==== Sys2Proof/Machine/State.lean ====
section
/-! DEFINITION. Everything the spec gives the machine (spec/10_state.md R10 to R24), the environment behind the
transport and the ports (R21, spec/20_memory.md R30 to R36) as inputs the step reads, the trace (R46), the output
port (R20, R130) and the host's pending requests (R68). Plain data throughout. -/

namespace Sys2Proof.Machine

/-! ### Engine state -/

/-- The report mode (R14): spelled MODE_ACTIVE and MODE_QUERY in the spec. -/
inductive ReportMode where
  | modeActive
  | modeQuery
  deriving DecidableEq, Repr

/-- The sensor's power state, as shadowed (R14). -/
inductive PowerState where
  | work
  | sleep
  deriving DecidableEq, Repr

/-- The session state `S` (R14, R15). -/
structure Session where
  configured : Bool
  reportMode : Option ReportMode
  power      : Option PowerState
  deriving DecidableEq, Repr

/-- The lifecycle of R16, a function of `S` and not stored. -/
inductive Lifecycle where
  | uninitialized
  | configured
  | awake
  | asleep
  deriving DecidableEq, Repr

/-- The phase of RECEIVE_FRAME (R13). -/
inductive RxPhase where
  | idle
  | scan
  | body
  deriving DecidableEq, Repr

/-- The receive sequencing state (R13). -/
structure Receiver where
  phase     : RxPhase
  scanCount : Nat
  rxCount   : Nat
  deriving DecidableEq, Repr

/-- The step of the cycle in progress (R18). -/
inductive SamplerPhase where
  | idle
  | wake
  | settle
  | mode
  | roundWait
  | roundQuery
  | recover
  | sleep
  | report
  | align
  deriving DecidableEq, Repr

/-- The sampler state `B` (R17, R18, R19). -/
structure Sampler where
  batch         : List Measurement
  round         : Nat
  recoveryCount : Nat
  phase         : SamplerPhase
  deriving DecidableEq, Repr

/-! ### The environment: the transport, the line and the clock (R21, R30 to R36, R142) -/

/-- A wall-clock time, in units of TICK: never negative (R142). -/
abbrev Time := { t : Rat // 0 ≤ t }

/-- What the line and the transport do before one primitive completes (DESIGN CHOICE, safe, log entry 21): how many bytes of the output buffer leave on
the wire, which bytes arrive, and, for a read, after how many bytes the read timeout runs out (`none`: it does not
cut the read shorter than the bytes at hand). -/
structure LineStep where
  sent    : Nat
  arrived : List Byte
  cut     : Option Nat
  deriving DecidableEq, Repr

/-- The line after the listed steps: quiet, or one byte again and again as fast as it is read (R45, U17). -/
inductive LineEnd where
  | quiet
  | noise (b : Byte)
  deriving DecidableEq, Repr

/-- The environment. Every list is what is still to come; a claim about every state is a claim about every
environment R32, R35 and R142 allow. -/
structure Env where
  /-- The transport's input buffer: bytes received and not yet read (R21 a). -/
  inBuf : List Byte
  /-- The transport's output buffer: bytes written and not yet sent (R21 b). -/
  outBuf : List Byte
  /-- The bytes that have left on the wire, first sent first (R31, R36). -/
  wire : List Byte
  /-- One entry per primitive to come. -/
  line : List LineStep
  /-- The line once `line` is used up. -/
  lineEnd : LineEnd
  /-- What each coming reopen leaves in the input and output buffers; both empty once used up (R35). -/
  reopened : List (List Byte × List Byte)
  /-- The answers of the coming clock reads (R142): any times, in any order. -/
  clock : List Time
  /-- The answer of every clock read after those. -/
  clockEnd : Time
  deriving DecidableEq, Repr

/-! ### The trace and the outputs (R46, R130) -/

/-- The labels of `Wait` (R141). -/
inductive WaitLabel where
  | settle
  | interSample
  | recovery
  | align (d : Rat)
  deriving DecidableEq, Repr

/-- One event per primitive performed (R46). -/
inductive Event where
  | write (v : List Byte)
  | read (n : Nat) (a : List Byte)
  | resetIn
  | resetOut
  | reopen
  | wait (label : WaitLabel)
  | now (t : Rat)
  | publish (pm10 pm25 : Rat)
  deriving DecidableEq, Repr

/-- What an operation returns (R67), beside its code. -/
inductive Value where
  /-- `Fail(code)` (R77, R78, R79). -/
  | failed
  /-- A command frame (ENCODE_COMMAND). -/
  | command (t : List Byte)
  /-- A ResponseFrame (DECODE_RESPONSE). -/
  | response (f : ResponseFrame)
  /-- A Measurement (DECODE_MEASUREMENT). -/
  | measurement (m : Measurement)
  /-- `Some ResponseFrame` or `None`. -/
  | received (r : Option ResponseFrame)
  /-- The boolean of SET_REPORT_MODE and SET_SLEEP. -/
  | flag (ok : Bool)
  /-- `Some Measurement` or `None` (QUERY). -/
  | queried (m : Option Measurement)
  /-- No result (RESYNCHRONIZE). -/
  | nothing
  /-- `Some AggregatedSample` or `None` (RUN_CYCLE). -/
  | cycle (a : Option AggregatedSample)
  /-- A rational or a time (MEDIAN, NEXT_WAKE_DELAY). -/
  | rational (q : Rat)
  /-- The command ids whose echo check a frame passes (the COMMAND_ECHO row). -/
  | echoFor (ids : List CmdId)
  deriving DecidableEq, Repr

/-- The output port: the value and the failure code of the last operation (R20, R130). -/
structure Output where
  value : Value
  code  : FailCode
  deriving DecidableEq, Repr

/-- The machine. -/
structure State where
  /-- CFG (R11): no operation writes it. -/
  cfg : Cfg
  /-- `tx_frame[0..18]` (R12). -/
  txFrame : List Byte
  /-- `rx_frame[0..9]` (R12). -/
  rxFrame : List Byte
  /-- `rx_phase`, `scan_count`, `rx_count` (R13). -/
  rx : Receiver
  /-- `S` (R14, R15). -/
  session : Session
  /-- `B` (R17, R18, R19). -/
  sampler : Sampler
  /-- The environment (R21): not the engine's. -/
  env : Env
  /-- The events of the run so far, first first: a recording (R46; DESIGN CHOICE, safe, log entry 15). -/
  trace : List Event
  /-- The last operation's result; none before the first: a recording of the output (R20; DESIGN CHOICE, safe, log
  entry 15). No operation reads it. -/
  output : Option Output
  /-- The words of the operations the host has still to issue, first first (R68, R70; DESIGN CHOICE, safe, log entry
  14). -/
  requests : List (List Byte)
  deriving DecidableEq, Repr

/-- Why the machine stops. -/
inductive Fault where
  /-- Raised by every operation that receives a frame, when SCAN_MAX is `none` and the line delivers bytes other than
  0xAA for ever: the header scan never ends (R45, U17), so the operation never returns. A stuck state. Safe: no claim
  about a next state covers it, and the hardware has none. -/
  | scanNeverEnds
  deriving DecidableEq, Repr

/-- Why the machine gives a word or an operation no meaning. -/
inductive Refusal where
  /-- An instruction without a meaning in this model: no arm of exec is one. Safe. -/
  | notModelled (mnemonic : String)
  /-- Raised by the step: the word names no operation and no frame (R63, R68, U9: cannot be presented). Safe. -/
  | undecodable (why : Reject)
  /-- Raised by the operations that send a command, when the payload is longer than 12 bytes: an illegal CFG (R11) or
  a frame row that is not well-formed. Safe. -/
  | payloadTooLong
  /-- Raised by DEVICE_ID when its operand is no argument of CFG's PL_DEVICE_ID, by its number of bytes (R95, R102).
  Safe. -/
  | notAnArgument
  /-- Raised by RUN_CYCLE when N_SAMPLES = 0 (R11, D21, U10). Safe. -/
  | noSamples
  /-- Raised by RUN_CYCLE and NEXT_WAKE_DELAY when PERIOD is not positive: an illegal CFG (R11). Safe. -/
  | periodNotPositive
  /-- Raised by MEDIAN of the empty list (R115, U10). Safe. -/
  | emptyMedian
  deriving DecidableEq, Repr

/-- The outcome of an internal procedure that answers an `α`: it returns in a state, never returns, or has no
meaning. -/
inductive Run (α : Type) where
  | done (a : α) (s : State)
  | fault (f : Fault)
  | refused (r : Refusal)
  deriving DecidableEq, Repr

/-! ### Reset (R23, R150, R151) -/

/-- `S` at reset (R23). -/
def Session.reset : Session where
  configured := false
  reportMode := none
  power := none

/-- `B` at reset (R23). -/
def Sampler.reset : Sampler where
  batch := []
  round := 0
  recoveryCount := 0
  phase := .idle

/-- The receive sequencing state at reset: `rx_phase` is IDLE (R23); the two counts are unspecified there, and 0 here
(DESIGN CHOICE, unsafe, log entry 1). -/
def Receiver.reset : Receiver where
  phase := .idle
  scanCount := 0
  rxCount := 0

/-- An environment in which nothing is buffered, nothing arrives and the clock stands at 0: R23 leaves all of it
unspecified (DESIGN CHOICE, unsafe, log entry 2). -/
def Env.quiet : Env where
  inBuf := []
  outBuf := []
  wire := []
  line := []
  lineEnd := .quiet
  reopened := []
  clock := []
  clockEnd := ⟨0, Rat.le_refl⟩

/-- The machine right after reset, given CFG and whatever environment it comes up in: reset touches neither the
transport nor the sensor (R150, R151). The frame buffers are unspecified at reset (R23), and zero here (DESIGN
CHOICE, unsafe, log entry 1). -/
def State.resetIn (cfg : Cfg) (env : Env) : State where
  cfg := cfg
  txFrame := List.replicate cmdLen 0
  rxFrame := List.replicate rspLen 0
  rx := Receiver.reset
  session := Session.reset
  sampler := Sampler.reset
  env := env
  trace := []
  output := none
  requests := []

/-- The machine right after reset, with the default CFG (R6, R8, R95). -/
def State.reset : State := State.resetIn Cfg.default Env.quiet

end Sys2Proof.Machine
end

