-- ==== Sys2Proof/Machine/Ops.lean ====
section
/-! DEFINITION. The named operations every meaning is built from: the writes of each piece of state, the
environment's part in a primitive, the primitives of spec/20_memory.md R31 to R35 and the ports of R118, R141 and
R142, the codec of R77 to R79, RECEIVE_FRAME (R92), the round trip (R94), RESYNCHRONIZE (R104) and the Sampler's
recovery action (R113, R135). -/

namespace Sys2Proof.Machine

/-! ### Sequencing -/

/-- Go on with the value and the state a procedure answers. -/
def Run.andThen {α β : Type} (r : Run α) (k : α → State → Run β) : Run β :=
  match r with
  | .done a s => k a s
  | .fault f => .fault f
  | .refused r => .refused r

/-! ### Writes of one piece of state (`name <- v`, R9) -/

/-- The environment moves on. -/
def State.setEnv (s : State) (e : Env) : State := { s with env := e }
/-- An event is recorded (R46). -/
def State.record (s : State) (ev : Event) : State := { s with trace := s.trace ++ [ev] }
/-- `tx_frame <- t`. -/
def State.setTxFrame (s : State) (t : List Byte) : State := { s with txFrame := t }
/-- `rx_frame <- f`. -/
def State.setRxFrame (s : State) (f : List Byte) : State := { s with rxFrame := f }
/-- `rx_phase <- p`. -/
def State.setRxPhase (s : State) (p : RxPhase) : State := { s with rx := { s.rx with phase := p } }
/-- `scan_count <- n`. -/
def State.setScanCount (s : State) (n : Nat) : State := { s with rx := { s.rx with scanCount := n } }
/-- `rx_count <- n`. -/
def State.setRxCount (s : State) (n : Nat) : State := { s with rx := { s.rx with rxCount := n } }
/-- `S.report_mode <- Some m ; S.configured <- true` (R97). -/
def State.setReportMode (s : State) (m : ReportMode) : State :=
  { s with session := { s.session with reportMode := some m, configured := true } }
/-- `S.power <- Some p` (R98). -/
def State.setPower (s : State) (p : PowerState) : State :=
  { s with session := { s.session with power := some p } }
/-- `B.batch <- b`. -/
def State.setBatch (s : State) (b : List Measurement) : State := { s with sampler := { s.sampler with batch := b } }
/-- `B.round <- k`. -/
def State.setRound (s : State) (k : Nat) : State := { s with sampler := { s.sampler with round := k } }
/-- `B.recovery_count <- c`. -/
def State.setRecoveryCount (s : State) (c : Nat) : State :=
  { s with sampler := { s.sampler with recoveryCount := c } }
/-- `B.phase <- p`. -/
def State.setPhase (s : State) (p : SamplerPhase) : State := { s with sampler := { s.sampler with phase := p } }
/-- The operation's result and code on the output port (R20, R130). -/
def State.setOutput (s : State) (value : Value) (code : FailCode) : State := { s with output := some ⟨value, code⟩ }
/-- The host's requests still to come. -/
def State.setRequests (s : State) (r : List (List Byte)) : State := { s with requests := r }

/-- An operation returns (R162). -/
def State.returns (s : State) (value : Value) (code : FailCode) : Host.Outcome State Fault Refusal :=
  .next (s.setOutput value code)

/-- An operation ends as its procedure does, with the value and code that `out` makes of the procedure's answer. -/
def Run.returns {α : Type} (r : Run α) (out : α → Value × FailCode) : Host.Outcome State Fault Refusal :=
  match r with
  | .done a s => s.returns (out a).1 (out a).2
  | .fault f => .fault f
  | .refused r => .refused r

/-- The lifecycle of the session (R16). -/
def lifecycle (x : Session) : Lifecycle :=
  if x.configured then
    match x.power with
    | none => .configured
    | some .work => .awake
    | some .sleep => .asleep
  else .uninitialized

/-! ### The environment's part in a primitive -/

/-- The line's step before a primitive completes: bytes leave, bytes arrive (R31, R32, R141). -/
def Env.advance (e : Env) : Env :=
  match e.line with
  | [] => e
  | l :: ls =>
    { e with
      line := ls
      inBuf := e.inBuf ++ l.arrived
      wire := e.wire ++ e.outBuf.take l.sent
      outBuf := e.outBuf.drop l.sent }

/-- The most bytes a read of `n` can return: fewer than `n` when the read timeout cuts it (R32). -/
def Env.readLimit (e : Env) (n : Nat) : Nat :=
  match e.line with
  | [] => n
  | l :: _ =>
    match l.cut with
    | none => n
    | some k => min k n

/-- On a line that ends in noise, and once its listed steps are used up, a read of `n` finds `n` bytes at hand. -/
def Env.fill (e : Env) (n : Nat) : Env :=
  match e.line, e.lineEnd with
  | [], .noise b => { e with inBuf := e.inBuf ++ List.replicate (n - e.inBuf.length) b }
  | _, _ => e

/-- `read_exact_or_timeout(n)` (R32): the answer is the next bytes of the receive stream, and they are consumed. -/
def Env.read (e : Env) (n : Nat) : List Byte × Env :=
  let k := e.readLimit n
  let f := (e.fill n).advance
  (f.inBuf.take k, { f with inBuf := f.inBuf.drop k })

/-- `write(v)` (R31): the bytes join the output buffer behind every earlier one. -/
def Env.write (e : Env) (v : List Byte) : Env :=
  let f := e.advance
  { f with outBuf := f.outBuf ++ v }

/-- `reset_input_buffer()` (R33). -/
def Env.resetIn (e : Env) : Env := { e.advance with inBuf := [] }

/-- `reset_output_buffer()` (R34). -/
def Env.resetOut (e : Env) : Env := { e.advance with outBuf := [] }

/-- `reopen()` (R35): both buffers have any content afterwards, the environment says which. -/
def Env.reopen (e : Env) : Env :=
  let f := e.advance
  match f.reopened with
  | [] => { f with inBuf := [], outBuf := [] }
  | c :: cs => { f with inBuf := c.1, outBuf := c.2, reopened := cs }

/-- `Now()` (R142): the clock's answer, a time `t >= 0`. -/
def Env.clockAnswer (e : Env) : Rat := (e.clock.headD e.clockEnd).val

/-- The clock has answered. -/
def Env.clockRead (e : Env) : Env :=
  let f := e.advance
  { f with clock := f.clock.tail }

/-- The bytes that are buffered or will arrive by the listed steps: a bound on the scan of a line that is not noise
for ever. -/
def Env.pending (e : Env) : Nat := e.inBuf.length + (e.line.map (fun l => l.arrived.length)).sum

/-! ### Primitives, each one event (R39, R40, R46). None fails (DESIGN CHOICE of the spec, D17; unsafe, log entry 18). -/

/-- `MemWrite(TX, len v, v)` (R31). -/
def memWrite (v : List Byte) (s : State) : State := (s.setEnv (s.env.write v)).record (.write v)

/-- The answer of `MemRead(RX, n)` (R32). -/
def memReadAnswer (n : Nat) (s : State) : List Byte := (s.env.read n).1

/-- `MemRead(RX, n)` (R32): the state after it. -/
def memRead (n : Nat) (s : State) : State :=
  (s.setEnv (s.env.read n).2).record (.read n (s.env.read n).1)

/-- `ResetIn()` (R33). -/
def resetIn (s : State) : State := (s.setEnv s.env.resetIn).record .resetIn

/-- `ResetOut()` (R34). -/
def resetOut (s : State) : State := (s.setEnv s.env.resetOut).record .resetOut

/-- `Reopen()` (R35). -/
def reopen (s : State) : State := (s.setEnv s.env.reopen).record .reopen

/-- `Wait(label)` (R141): bytes that arrive meanwhile pile up in the input buffer. -/
def wait (label : WaitLabel) (s : State) : State := (s.setEnv s.env.advance).record (.wait label)

/-- `Now()` (R142): the state after it; the answer is `s.env.clockAnswer`. -/
def now (s : State) : State := (s.setEnv s.env.clockRead).record (.now s.env.clockAnswer)

/-- `Publish(pm10, pm25)` (R118): PM10 first. -/
def publish (pm10 pm25 : Rat) (s : State) : State := (s.setEnv s.env.advance).record (.publish pm10 pm25)

/-! ### The codec (R75 to R79) -/

/-- The frame of ENCODE_COMMAND (R77): CONSTRUCTION_ERROR exactly when the payload exceeds 12 bytes. -/
def encodeFrame (cfg : Cfg) (id : CmdId) (p : List Byte) : Except FailCode (List Byte) :=
  if payloadMax < p.length then .error .constructionError
  else .ok (commandBytes id ⟨pad12 p, cfg.dest0, cfg.dest1, cmdChecksum id (pad12 p) cfg.dest0 cfg.dest1⟩)

/-- The checks of DECODE_RESPONSE (R78, R133), in their order: length, checksum, tail. -/
def checkBody : List Byte → Except FailCode ResponseFrame
  | ty :: d0 :: d1 :: d2 :: d3 :: i0 :: i1 :: cs :: tl :: _ =>
    if cs ≠ rspChecksum d0 d1 d2 d3 i0 i1 then .error .badChecksum
    else if tl ≠ tailByte then .error .badTail
    else .ok ⟨ty, d0, d1, d2, d3, i0, i1, cs, tl⟩
  | _ => .error .truncated

/-- DECODE_RESPONSE's write of `rx_frame` (R78): the header and the first nine bytes, where there are nine. -/
def loadBody (body : List Byte) (s : State) : State :=
  if body.length < 9 then s else s.setRxFrame (header :: body.take 9)

/-- DECODE_MEASUREMENT (R79, R60): PM2.5 first, low byte first. -/
def toMeasurement (f : ResponseFrame) : Except FailCode Measurement :=
  if f.rtype ≠ typeData then .error .notDataReport
  else .ok ⟨le16 f.d0 f.d1, le16 f.d2 f.d3⟩

/-! ### RECEIVE_FRAME (R92, R93) -/

/-- How a header scan ends: on 0xAA, on an empty read or the bound SCAN_MAX, or never. -/
inductive ScanEnd where
  | header (s : State)
  | noHeader (s : State)
  | endless

/-- The watchdog of R45: the count of noise bytes exceeds SCAN_MAX. -/
def overScanMax (scanMax : Option Nat) (count : Nat) : Bool :=
  match scanMax with
  | none => false
  | some m => decide (m < count)

/-- The header scan (R92, R93): one `Read(1, _)` per byte. The first argument bounds the reads. -/
def scan : Nat → State → ScanEnd
  | 0, _ => .endless
  | fuel + 1, s =>
    match memReadAnswer 1 s with
    | [] => .noHeader (memRead 1 s)
    | b :: _ =>
      if b = Sys2Proof.header then .header (memRead 1 s)
      else
        let t := (memRead 1 s).setScanCount (s.rx.scanCount + 1)
        if overScanMax s.cfg.scanMax (s.rx.scanCount + 1) then .noHeader t else scan fuel t

/-- Reads enough for every scan that ends. With SCAN_MAX = Some m noise byte m + 1 ends the scan (R45). With no bound
the pending bytes are read one by one, and one read more is empty on a quiet line; a noise byte there comes from
the noise that never ends. -/
def scanFuel (s : State) : Nat :=
  match s.cfg.scanMax with
  | some m => m + 1
  | none => s.env.pending + 1

/-- The start of RECEIVE_FRAME: `rx_phase <- SCAN ; scan_count <- 0`, no body byte read yet (R92, R13; that
`rx_count` is 0 here is DEDUCED, unsafe, log entry 16). -/
def beginScan (s : State) : State := ((s.setRxPhase .scan).setScanCount 0).setRxCount 0

/-- The body read (R92): `Read(9, _)`, `rx_phase` BODY before it and IDLE after it. -/
def readBody (s : State) : State :=
  (((memRead 9 (s.setRxPhase .body)).setRxCount (memReadAnswer 9 s).length).setRxPhase .idle)

/-- RECEIVE_FRAME (R92): the frame, or the code of the failed result. -/
def receive (s : State) : Run (Except FailCode ResponseFrame) :=
  match scan (scanFuel s) (beginScan s) with
  | .endless => .fault .scanNeverEnds
  | .noHeader t => .done (.error .noHeader) (t.setRxPhase .idle)
  | .header t => .done (checkBody (memReadAnswer 9 t)) (loadBody (memReadAnswer 9 t) (readBody t))

/-- The frame of a result, without its code. -/
def frameOf (r : Except FailCode ResponseFrame) : Option ResponseFrame :=
  match r with
  | .ok f => some f
  | .error _ => none

/-! ### The round trip and the recovery (R94, R104, R113, R135) -/

/-- `round_trip(id, p)` (R94): one write, then one RECEIVE_FRAME. Its payload never exceeds 12 bytes; an illegal one
has no meaning (DEDUCED, safe, log entry 9). -/
def roundTrip (id : CmdId) (p : List Byte) (s : State) : Run (Except FailCode ResponseFrame) :=
  match encodeFrame s.cfg id p with
  | .error _ => .refused .payloadTooLong
  | .ok t => receive (memWrite t (s.setTxFrame t))

/-- RESYNCHRONIZE (R104): ResetIn, ResetOut, Reopen. -/
def resynchronize (s : State) : State := reopen (resetOut (resetIn s))

/-- The recovery action (R113, R135), the block's one answer to a failed round: nothing is saved and nothing is
masked; the recovery wait, RESYNCHRONIZE, and the counter goes up by one. Control then goes to step 3 of the
cycle. -/
def recoveryAction (s : State) : State :=
  let t := resynchronize (wait .recovery (s.setPhase .recover))
  t.setRecoveryCount (t.sampler.recoveryCount + 1)

end Sys2Proof.Machine
end

