-- ==== Sys2Proof/Machine/Codec.lean ====
section
/-! DEFINITION. The Frame Codec operations: ENCODE_COMMAND, DECODE_RESPONSE, DECODE_MEASUREMENT
(spec/40_frame_codec.md R75 to R82). No primitive, no event, no session or sampler state (R75). -/

namespace Sys2Proof.Machine

/-- ENCODE_COMMAND id, p (R77): the frame, also left in `tx_frame`; on a construction error nothing is built and
`tx_frame` is not written. -/
def execEncodeCommand (id : CmdId) (p : List Byte) (s : State) : Host.Outcome State Fault Refusal :=
  match encodeFrame s.cfg id p with
  | .error c => s.returns .failed c
  | .ok t => (s.setTxFrame t).returns (.command t) .ok

/-- DECODE_RESPONSE body (R78). -/
def execDecodeResponse (body : List Byte) (s : State) : Host.Outcome State Fault Refusal :=
  match checkBody body with
  | .error c => (loadBody body s).returns .failed c
  | .ok f => (loadBody body s).returns (.response f) .ok

/-- DECODE_MEASUREMENT f (R79). -/
def execDecodeMeasurement (f : ResponseFrame) (s : State) : Host.Outcome State Fault Refusal :=
  match toMeasurement f with
  | .error c => s.returns .failed c
  | .ok m => s.returns (.measurement m) .ok

end Sys2Proof.Machine
end

