-- ==== Sys2Proof/Machine/Session.lean ====
section
/-! DEFINITION. The Device Session operations (spec/41_device_session.md R90 to R104): RECEIVE_FRAME, SET_REPORT_MODE,
SET_SLEEP, QUERY, SET_WORKING_PERIOD, READ_FIRMWARE, DEVICE_ID, RESYNCHRONIZE. Each command is a procedure over a
payload, which the Sampler and the frame rows share, and a meaning that puts its answer on the output port. -/

namespace Sys2Proof.Machine

/-! ### The commands as procedures -/

/-- A mode-set command (R97): on a valid echo the report mode becomes the one asked for and the session is configured.
`mode` is none only for a frame row whose payload stands for no mode (DESIGN CHOICE, unsafe, log entry 8): then `S` is unchanged. -/
def modeCommand (p : List Byte) (mode : Option Bool) (s : State) : Run Bool :=
  (roundTrip .modeSet p s).andThen fun r t =>
    if echoOk t.cfg (frameOf r) .modeSet then
      match mode with
      | some active => .done true (t.setReportMode (if active then .modeActive else .modeQuery))
      | none => .done true t
    else .done false t

/-- A sleep command (R98): on a valid echo the shadow of the power state becomes the one asked for. -/
def sleepCommand (p : List Byte) (sleep : Option Bool) (s : State) : Run Bool :=
  (roundTrip .sleep p s).andThen fun r t =>
    if echoOk t.cfg (frameOf r) .sleep then
      match sleep with
      | some b => .done true (t.setPower (if b then .sleep else .work))
      | none => .done true t
    else .done false t

/-- A query-data command (R99): the measurement of the frame received, or the code of the first failing check
(R133). -/
def queryCommand (p : List Byte) (s : State) : Run (Except FailCode Measurement) :=
  (roundTrip .queryData p s).andThen fun r t =>
    match r with
    | .error c => .done (.error c) t
    | .ok f => .done (toMeasurement f) t

/-- A command whose result is its raw echo frame (R100, R101, R102). -/
def echoCommand (id : CmdId) (p : List Byte) (s : State) : Run (Option ResponseFrame) :=
  (roundTrip id p s).andThen fun r t =>
    if echoOk t.cfg (frameOf r) id then .done (frameOf r) t else .done none t

/-! ### Results and codes (R130, R133) -/

/-- RECEIVE_FRAME: `Some` frame, or `None` with its status. -/
def receivedOutput (r : Except FailCode ResponseFrame) : Value × FailCode :=
  match r with
  | .ok f => (.received (some f), .ok)
  | .error c => (.received none, c)

/-- SET_REPORT_MODE and SET_SLEEP: ECHO_INVALID covers every failure. -/
def flagOutput (ok : Bool) : Value × FailCode := (.flag ok, if ok then .ok else .echoInvalid)

/-- QUERY: the RECEIVE_FRAME failure if any, else NOT_DATA_REPORT. -/
def queryOutput (r : Except FailCode Measurement) : Value × FailCode :=
  match r with
  | .ok m => (.queried (some m), .ok)
  | .error c => (.queried none, c)

/-- SET_WORKING_PERIOD, READ_FIRMWARE, DEVICE_ID: `Some` echo, or `None` with ECHO_INVALID. -/
def echoOutput (r : Option ResponseFrame) : Value × FailCode :=
  match r with
  | some f => (.received (some f), .ok)
  | none => (.received none, .echoInvalid)

/-! ### The commands with their operands -/

/-- The procedure SET_REPORT_MODE active (R97). -/
def setReportMode (active : Bool) (s : State) : Run Bool :=
  modeCommand (modePayload s.cfg active) (some active) s

/-- The procedure SET_SLEEP sleep (R98). -/
def setSleep (sleep : Bool) (s : State) : Run Bool :=
  sleepCommand (sleepPayload s.cfg sleep) (some sleep) s

/-- The procedure QUERY (R99). -/
def query (s : State) : Run (Except FailCode Measurement) := queryCommand s.cfg.plQuery s

/-! ### The meanings -/

/-- RECEIVE_FRAME (R92). -/
def execReceiveFrame (s : State) : Host.Outcome State Fault Refusal := (receive s).returns receivedOutput

/-- SET_REPORT_MODE active (R97). -/
def execSetReportMode (active : Bool) (s : State) : Host.Outcome State Fault Refusal :=
  (setReportMode active s).returns flagOutput

/-- SET_SLEEP sleep (R98). -/
def execSetSleep (sleep : Bool) (s : State) : Host.Outcome State Fault Refusal :=
  (setSleep sleep s).returns flagOutput

/-- QUERY (R99). -/
def execQuery (s : State) : Host.Outcome State Fault Refusal := (query s).returns queryOutput

/-- SET_WORKING_PERIOD p (R100). -/
def execSetWorkingPeriod (p : Byte) (s : State) : Host.Outcome State Fault Refusal :=
  (echoCommand .workingPeriod (payloadOf s.cfg.plWorkingPeriod [p]) s).returns echoOutput

/-- READ_FIRMWARE (R101). -/
def execReadFirmware (s : State) : Host.Outcome State Fault Refusal :=
  (echoCommand .firmware s.cfg.plFirmware s).returns echoOutput

/-- DEVICE_ID a, of `n` bytes (R102). `a` is the argument of PL_DEVICE_ID: bytes that are none have no payload and no
meaning (DEDUCED, safe, log entry 9). -/
def execDeviceId (n : Nat) (a : Vector Byte n) (s : State) : Host.Outcome State Fault Refusal :=
  if payloadTakes s.cfg.plDeviceId n then
    (echoCommand .deviceId (payloadOf s.cfg.plDeviceId a.toList) s).returns echoOutput
  else .refused .notAnArgument

/-- RESYNCHRONIZE (R104). -/
def execResynchronize (s : State) : Host.Outcome State Fault Refusal :=
  (resynchronize s).returns .nothing .ok

end Sys2Proof.Machine
end

