-- ==== Sys2Proof/Machine/Frames.lean ====
section
/-! DEFINITION. The frame rows of the opcode table. A command frame (CMD19) is the command it carries: the round trip
that sends it (R94), then what the rule of its row does with the answer, with this frame's payload in place of the
payload parameter ("Every rule of this file holds for any payload values of length <= 12", R95). The engine writes
only what ENCODE_COMMAND builds (R31), so the destination and checksum of the frame written are CFG's and the
computed ones, whatever the word has there (DESIGN CHOICE, unsafe, log entry 7). A response frame (RSP10) is a frame to
check: DECODE_RESPONSE on its body (R78), then the rule of its row (R79, R96) (DESIGN CHOICE, unsafe, log entry 6). -/

namespace Sys2Proof.Machine

/-! ### Command frames -/

/-- CMD_MODE_SET (R97): `S.report_mode` becomes the mode whose payload parameter the frame carries. -/
def execCmdModeSet (f : CommandFields) (s : State) : Host.Outcome State Fault Refusal :=
  (modeCommand f.payload (operandOf s.cfg.plModeActive s.cfg.plModeQuery f.payload) s).returns flagOutput

/-- CMD_QUERY_DATA (R99). -/
def execCmdQueryData (f : CommandFields) (s : State) : Host.Outcome State Fault Refusal :=
  (queryCommand f.payload s).returns queryOutput

/-- CMD_DEVICE_ID (R102). -/
def execCmdDeviceId (f : CommandFields) (s : State) : Host.Outcome State Fault Refusal :=
  (echoCommand .deviceId f.payload s).returns echoOutput

/-- CMD_SLEEP (R98): `S.power` becomes the power state whose payload parameter the frame carries. -/
def execCmdSleep (f : CommandFields) (s : State) : Host.Outcome State Fault Refusal :=
  (sleepCommand f.payload (operandOf s.cfg.plSleep s.cfg.plWake f.payload) s).returns flagOutput

/-- CMD_FIRMWARE (R101). -/
def execCmdFirmware (f : CommandFields) (s : State) : Host.Outcome State Fault Refusal :=
  (echoCommand .firmware f.payload s).returns echoOutput

/-- CMD_WORKING_PERIOD (R100). -/
def execCmdWorkingPeriod (f : CommandFields) (s : State) : Host.Outcome State Fault Refusal :=
  (echoCommand .workingPeriod f.payload s).returns echoOutput

/-! ### Response frames -/

/-- DATA_REPORT (R78, R79): the measurement the report carries, or the first failing check. -/
def execDataReport (f : ReportFields) (s : State) : Host.Outcome State Fault Refusal :=
  let body := reportBody typeData f
  match checkBody body with
  | .error c => (loadBody body s).returns .failed c
  | .ok r =>
    match toMeasurement r with
    | .error c => (loadBody body s).returns .failed c
    | .ok m => (loadBody body s).returns (.measurement m) .ok

/-- COMMAND_ECHO (R78, R96): the command ids for which the frame is a valid echo, or the first failing check. -/
def execCommandEcho (f : ReportFields) (s : State) : Host.Outcome State Fault Refusal :=
  let body := reportBody typeEcho f
  match checkBody body with
  | .error c => (loadBody body s).returns .failed c
  | .ok r => (loadBody body s).returns (.echoFor (allCmdIds.filter (echoOk s.cfg (some r)))) .ok

end Sys2Proof.Machine
end

