-- ==== Sys2Proof/Machine/Sampler.lean ====
section
/-! DEFINITION. The Sampler operations (spec/42_sampler.md R109 to R121): RUN_CYCLE, MEDIAN, NEXT_WAKE_DELAY. -/

namespace Sys2Proof.Machine

/-! ### Arithmetic, exact (R80, R115, R117, R119) -/

/-- MEDIAN v (R115): the middle value of an odd number of values, the average of the two middle values of an even
number, by the values in ascending order. -/
def medianOf (v : List Nat) : Rat :=
  let s := v.insertionSort (· ≤ ·)
  let n := s.length
  if n % 2 = 1 then (s.getD (n / 2) 0 : Rat)
  else ((s.getD (n / 2 - 1) 0 : Rat) + (s.getD (n / 2) 0 : Rat)) / 2

/-- `a mod p` for rationals (R9). -/
def ratMod (a p : Rat) : Rat := a - p * ((a / p).floor : Rat)

/-- NEXT_WAKE_DELAY n (R119): a remainder of 0 gives a full period. For `n < 0`, outside the rule's operands, the same
formula (DESIGN CHOICE, unsafe, log entry 17). -/
def wakeDelay (period n : Rat) : Rat := period - ratMod n period

/-- `round2` (R117): to two decimals. Every value that occurs is a multiple of 0.05 and is not changed; on others,
which do not occur, it takes the nearest, a half upwards (DESIGN CHOICE, safe, log entry 10). -/
def round2 (x : Rat) : Rat := ((x * 100 + 1 / 2).floor : Rat) / 100

/-! ### The cycle (R110 to R118) -/

/-- Cycle start (R111). -/
def beginCycle (s : State) : State := ((s.setBatch []).setRound 0).setRecoveryCount 0

/-- Step 1 (R112): wake, the settle wait, query mode; both results ignored. -/
def wakeAndMode (s : State) : Run Unit :=
  (setSleep false (s.setPhase .wake)).andThen fun _ s1 =>
    (setReportMode false ((wait .settle (s1.setPhase .settle)).setPhase .mode)).andThen fun _ s2 =>
      .done () s2

/-- The start of a round (R113): its number, then the inter-sample wait. -/
def beginRound (s : State) : State :=
  (wait .interSample ((s.setRound (s.sampler.round + 1)).setPhase .roundWait)).setPhase .roundQuery

/-- Step 2 (R113): the rounds still to run. A good round appends its measurement; the first failed one runs the
recovery action and ends the rounds. -/
def runRounds : Nat → State → Run Unit
  | 0, s => .done () s
  | k + 1, s =>
    (query (beginRound s)).andThen fun r t =>
      match r with
      | .ok m => runRounds k (t.setBatch (t.sampler.batch ++ [m]))
      | .error _ => .done () (recoveryAction t)

/-- Step 3 (R114): back to sleep, always; the result ignored. -/
def backToSleep (s : State) : Run Unit :=
  (setSleep true (s.setPhase .sleep)).andThen fun _ t => .done () t

/-- The aggregate of the batch, stamped with the clock's answer (R110 step 4, R117). -/
def aggregate (s : State) : AggregatedSample where
  pm25 := medianOf (s.sampler.batch.map (fun m => m.pm25Raw.toNat)) / 10
  pm10 := medianOf (s.sampler.batch.map (fun m => m.pm10Raw.toNat)) / 10
  timestamp := s.env.clockAnswer

/-- Step 4 of a complete batch (R116, R118): the time stamp, then one Publish, PM10 first. -/
def report (s : State) : State :=
  publish (round2 (aggregate s).pm10) (round2 (aggregate s).pm25) (now (s.setPhase .report))

/-- Step 5 (R119): the alignment wait, after which the cycle is over. -/
def alignWait (s : State) : State :=
  (wait (.align (wakeDelay s.cfg.period s.env.clockAnswer)) (now (s.setPhase .align))).setPhase .idle

/-- Steps 4 and 5 (R110): the aggregate is reported if and only if the batch is complete (R116). -/
def finishCycle (s : State) : Run (Option AggregatedSample) :=
  if s.sampler.batch.length = s.cfg.nSamples then .done (some (aggregate s)) (alignWait (report s))
  else .done none (alignWait s)

/-- The procedure RUN_CYCLE (R110). -/
def cycle (s : State) : Run (Option AggregatedSample) :=
  (wakeAndMode (beginCycle s)).andThen fun _ s1 =>
    (runRounds s1.cfg.nSamples s1).andThen fun _ s2 =>
      (backToSleep s2).andThen fun _ s3 => finishCycle s3

/-- RUN_CYCLE's result and code (R130): INCOMPLETE_BATCH where there is no aggregate. -/
def cycleOutput (a : Option AggregatedSample) : Value × FailCode :=
  match a with
  | some x => (.cycle (some x), .ok)
  | none => (.cycle none, .incompleteBatch)

/-- RUN_CYCLE (R110). CFG's legal values are N_SAMPLES >= 1 and PERIOD > 0 (R11); outside them it has no meaning
(D21, U10). -/
def execRunCycle (s : State) : Host.Outcome State Fault Refusal :=
  if s.cfg.nSamples = 0 then .refused .noSamples
  else if s.cfg.period.num ≤ 0 then .refused .periodNotPositive
  else (cycle s).returns cycleOutput

/-- MEDIAN v (R115): of the empty list it has no meaning. -/
def execMedian (v : List Word16) (s : State) : Host.Outcome State Fault Refusal :=
  if v.isEmpty then .refused .emptyMedian
  else s.returns (.rational (medianOf (v.map BitVec.toNat))) .ok

/-- NEXT_WAKE_DELAY n (R119). -/
def execNextWakeDelay (n : Rat) (s : State) : Host.Outcome State Fault Refusal :=
  if s.cfg.period.num ≤ 0 then .refused .periodNotPositive
  else s.returns (.rational (wakeDelay s.cfg.period n)) .ok

end Sys2Proof.Machine
end

