-- ==== Sys2Proof/Machine/Dispatch.lean ====
section
/-! DEFINITION. One arm per row of the opcode table. -/

namespace Sys2Proof.Machine

def exec (i : Instr) (s : State) : Host.Outcome State Fault Refusal :=
  match i with
  -- command frames (CMD19)
  | .cmdModeSet f => Sys2Proof.Machine.execCmdModeSet f s
  | .cmdQueryData f => Sys2Proof.Machine.execCmdQueryData f s
  | .cmdDeviceId f => Sys2Proof.Machine.execCmdDeviceId f s
  | .cmdSleep f => Sys2Proof.Machine.execCmdSleep f s
  | .cmdFirmware f => Sys2Proof.Machine.execCmdFirmware f s
  | .cmdWorkingPeriod f => Sys2Proof.Machine.execCmdWorkingPeriod f s
  -- response frames (RSP10)
  | .dataReport f => Sys2Proof.Machine.execDataReport f s
  | .commandEcho f => Sys2Proof.Machine.execCommandEcho f s
  -- the Frame Codec
  | .encodeCommand id p => Sys2Proof.Machine.execEncodeCommand id p s
  | .decodeResponse body => Sys2Proof.Machine.execDecodeResponse body s
  | .decodeMeasurement f => Sys2Proof.Machine.execDecodeMeasurement f s
  -- the Device Session
  | .receiveFrame => Sys2Proof.Machine.execReceiveFrame s
  | .setReportMode active => Sys2Proof.Machine.execSetReportMode active s
  | .setSleep sleep => Sys2Proof.Machine.execSetSleep sleep s
  | .query => Sys2Proof.Machine.execQuery s
  | .setWorkingPeriod p => Sys2Proof.Machine.execSetWorkingPeriod p s
  | .readFirmware => Sys2Proof.Machine.execReadFirmware s
  | .deviceId n a => Sys2Proof.Machine.execDeviceId n a s
  | .resynchronize => Sys2Proof.Machine.execResynchronize s
  -- the Sampler
  | .runCycle => Sys2Proof.Machine.execRunCycle s
  | .median v => Sys2Proof.Machine.execMedian v s
  | .nextWakeDelay n => Sys2Proof.Machine.execNextWakeDelay n s

end Sys2Proof.Machine
end

