-- ==== Sys2Proof/Machine/Step.lean ====
section
/-! DEFINITION. One step: the host's next request, run to its end (spec/30_encoding.md R68, R70; R154, R162). The
block fetches no instructions (R13, R44): what stands in place of a fetch is the word at the head of the host's
pending requests (DESIGN CHOICE, safe, log entries 13 and 14). -/

namespace Sys2Proof.Machine

/-- One step. With no request the engine is idle and waits for the host (R23, R151): nothing changes. Otherwise the
first request is taken and, where its word is an instruction, that instruction is executed to its end. -/
def step (s : State) : Host.Outcome State Fault Refusal :=
  match s.requests with
  | [] => .next s
  | word :: rest =>
    match decode word with
    | .ok i => exec i (s.setRequests rest)
    | .error why => .refused (.undecodable why)

/-- The state in which a word, given as one number and followed by operand bytes of zeros, is the host's next
request. -/
def State.withFetchWord (s : State) (nbits w : Nat) : State := s.setRequests (tableBytes nbits w :: s.requests)

end Sys2Proof.Machine
end

