-- ==== Sys2Proof/Safety.lean ====
section
/-! DEFINITION. The terms claims are stated in: the accesses the engine may make, what holds between two operations,
what one reception and one cycle may show of themselves, and the premises of spec/92_eei_decisions.md. -/

namespace Sys2Proof.Machine

/-! ### The engine's accesses -/

/-- The frame ENCODE_COMMAND builds of a command id and a payload of at most 12 bytes (R77). -/
def commandFrame (cfg : Cfg) (id : CmdId) (p : List Byte) : List Byte :=
  commandBytes id ⟨pad12 p, cfg.dest0, cfg.dest1, cmdChecksum id (pad12 p) cfg.dest0 cfg.dest1⟩

/-- The only accesses the engine makes (R31, R32, R39, R142): a write is a whole command frame, a read asks for 1 or 9
bytes and is answered with at most that many, a clock read is answered with a time that is not negative. -/
def EngineEvent (cfg : Cfg) : Event → Prop
  | .write v => ∃ id p, p.length ≤ payloadMax ∧ v = commandFrame cfg id p
  | .read n a => (n = 1 ∨ n = 9) ∧ a.length ≤ n
  | .resetIn => True
  | .resetOut => True
  | .reopen => True
  | .wait _ => True
  | .now t => 0 ≤ t
  | .publish _ _ => True

/-- Every event of the trace is an access the engine makes. -/
def TraceConforms (s : State) : Prop := ∀ ev ∈ s.trace, EngineEvent s.cfg ev

/-- The buffer maintenance of R43. -/
def isBufferReset : Event → Bool
  | .resetIn => true
  | .resetOut => true
  | .reopen => true
  | .read _ _ => false
  | .write _ => false
  | .wait _ => false
  | .now _ => false
  | .publish _ _ => false

/-- A call of the Reporting Sink (R118). -/
def isPublish : Event → Bool
  | .publish _ _ => true
  | .read _ _ => false
  | .write _ => false
  | .resetIn => false
  | .resetOut => false
  | .reopen => false
  | .wait _ => false
  | .now _ => false

/-- A clock read (R142). -/
def isNow : Event → Bool
  | .now _ => true
  | .read _ _ => false
  | .write _ => false
  | .resetIn => false
  | .resetOut => false
  | .reopen => false
  | .wait _ => false
  | .publish _ _ => false

/-- A wait (R141). -/
def isWait : Event → Bool
  | .wait _ => true
  | .publish _ _ => false
  | .read _ _ => false
  | .write _ => false
  | .resetIn => false
  | .resetOut => false
  | .reopen => false
  | .now _ => false

/-- The frames written, in order. -/
def written : List Event → List (List Byte)
  | [] => []
  | .write v :: es => v :: written es
  | .read _ _ :: es => written es
  | .resetIn :: es => written es
  | .resetOut :: es => written es
  | .reopen :: es => written es
  | .wait _ :: es => written es
  | .now _ :: es => written es
  | .publish _ _ :: es => written es

/-- The bytes read, in order. -/
def bytesRead : List Event → List Byte
  | [] => []
  | .read _ a :: es => a ++ bytesRead es
  | .write _ :: es => bytesRead es
  | .resetIn :: es => bytesRead es
  | .resetOut :: es => bytesRead es
  | .reopen :: es => bytesRead es
  | .wait _ :: es => bytesRead es
  | .now _ :: es => bytesRead es
  | .publish _ _ :: es => bytesRead es

/-- The receive stream still to come from the listed steps of the line: what is buffered, then what arrives
(R21 a, R32). What the line delivers behind it is `LineEnd.bytes`. -/
def stream (e : Env) : List Byte := e.inBuf ++ (e.line.map LineStep.arrived).flatten

/-- The first `k` bytes a line delivers behind its listed steps: none where it falls quiet (R32, R45). -/
def LineEnd.bytes : LineEnd → Nat → List Byte
  | .quiet, _ => []
  | .noise b, k => List.replicate k b

/-- What `rx_frame` holds after these events (R12, R78, R92): the header and the body of the last nine-byte read that
was answered with nine bytes, and what it held before where there was none. -/
def rxFrameAfter (old : List Byte) : List Event → List Byte
  | [] => old
  | .read n a :: es => rxFrameAfter (if n = 9 ∧ a.length = 9 then header :: a else old) es
  | .write _ :: es => rxFrameAfter old es
  | .resetIn :: es => rxFrameAfter old es
  | .resetOut :: es => rxFrameAfter old es
  | .reopen :: es => rxFrameAfter old es
  | .wait _ :: es => rxFrameAfter old es
  | .now _ :: es => rxFrameAfter old es
  | .publish _ _ :: es => rxFrameAfter old es

/-- A read of one noise byte (R92, R93). -/
def isNoiseRead : Event → Bool
  | .read n a => decide (n = 1 ∧ a.length = 1 ∧ a ≠ [header])
  | .write _ => false
  | .resetIn => false
  | .resetOut => false
  | .reopen => false
  | .wait _ => false
  | .now _ => false
  | .publish _ _ => false

/-! ### The environment's side of a trace -/

/-- From the environment `e` these events happen, one after another, and leave it at `e'`: every read shows what the
environment answers there, every clock read its time, and the environment goes on by each access (R31 to R35, R118,
R141, R142; that the environment is data in State and moves on once per access is the model's form of it, log entries
2 and 21). -/
def Answered (e : Env) : List Event → Env → Prop
  | [], e' => e' = e
  | .read n a :: es, e' => a = (e.read n).1 ∧ Answered (e.read n).2 es e'
  | .write v :: es, e' => Answered (e.write v) es e'
  | .resetIn :: es, e' => Answered e.resetIn es e'
  | .resetOut :: es, e' => Answered e.resetOut es e'
  | .reopen :: es, e' => Answered e.reopen es e'
  | .wait _ :: es, e' => Answered e.advance es e'
  | .now q :: es, e' => q = e.clockAnswer ∧ Answered e.clockRead es e'
  | .publish _ _ :: es, e' => Answered e.advance es e'

/-- The environment after reads of these sizes. -/
def afterReads (e : Env) : List Nat → Env
  | [] => e
  | n :: ns => afterReads (e.read n).2 ns

/-! ### What a reception and a cycle show -/

/-- The events of a header scan over these noise bytes, one read each (R93). -/
def scanEvents (noise : List Byte) : List Event := noise.map (fun b => .read 1 [b])

/-- No byte of these is a header, and their number is within SCAN_MAX (R45). -/
def IsNoise (cfg : Cfg) (noise : List Byte) : Prop :=
  (∀ b ∈ noise, b ≠ header) ∧ ∀ m, cfg.scanMax = some m → noise.length ≤ m

/-- What one RECEIVE_FRAME may show, and its answer: exactly the cases of R92. -/
inductive Reception (cfg : Cfg) : List Event → Except FailCode ResponseFrame → Prop where
  /-- A 1-byte read came back empty before a header was seen. -/
  | empty (noise : List Byte) (h : IsNoise cfg noise) :
      Reception cfg (scanEvents noise ++ [.read 1 []]) (.error .noHeader)
  /-- Noise byte number m + 1 was met under SCAN_MAX = Some m. -/
  | bound (noise : List Byte) (m : Nat) (hm : cfg.scanMax = some m) (hn : ∀ b ∈ noise, b ≠ header)
      (hl : noise.length = m + 1) : Reception cfg (scanEvents noise) (.error .noHeader)
  /-- A header was found, and the body read answered at most nine bytes, which DECODE_RESPONSE judges. -/
  | framed (noise body : List Byte) (h : IsNoise cfg noise) (hb : body.length ≤ 9) :
      Reception cfg (scanEvents noise ++ [.read 1 [header], .read 9 body]) (checkBody body)

/-- One RECEIVE_FRAME that showed these events took `s` to `t`, the session and the output left aside: the trace grows
by the events; `rx_frame` is the header and the body read where the body read was answered with nine bytes, and kept
otherwise; `rx_phase` is IDLE again and `scan_count` the number of noise bytes read; nothing is sent; every read shows
what the environment answered to it; the bytes read and the stream still to come are the stream before, and behind it
what the line delivers after its listed steps: no byte is skipped, read twice or put back (R32, R78, R92). -/
structure Receives (evs : List Event) (s t : State) : Prop where
  trace : t.trace = s.trace ++ evs
  rxFrame : t.rxFrame = rxFrameAfter s.rxFrame evs
  rxPhase : t.rx.phase = .idle
  scanCount : t.rx.scanCount = (evs.filter isNoiseRead).length
  rxCount : t.rx.rxCount ≤ 9
  cfg : t.cfg = s.cfg
  txFrame : t.txFrame = s.txFrame
  sampler : t.sampler = s.sampler
  requests : t.requests = s.requests
  answered : Answered s.env evs t.env
  outgoing : t.env.wire ++ t.env.outBuf = s.env.wire ++ s.env.outBuf
  incoming : ∃ k, bytesRead evs ++ stream t.env = stream s.env ++ s.env.lineEnd.bytes k
  lineEnd : t.env.lineEnd = s.env.lineEnd
  clock : t.env.clock = s.env.clock ∧ t.env.clockEnd = s.env.clockEnd

/-- One round trip (R94) of this command id and payload took `s` to `t`, the session and the output left aside: one
write of the frame, behind every earlier byte still to leave, and then one reception that showed these events, with
everything `Receives` says of it. -/
structure Commanded (id : CmdId) (p : List Byte) (evs : List Event) (s t : State) : Prop where
  trace : t.trace = s.trace ++ .write (commandFrame s.cfg id p) :: evs
  rxFrame : t.rxFrame = rxFrameAfter s.rxFrame evs
  rxPhase : t.rx.phase = .idle
  scanCount : t.rx.scanCount = (evs.filter isNoiseRead).length
  rxCount : t.rx.rxCount ≤ 9
  cfg : t.cfg = s.cfg
  txFrame : t.txFrame = commandFrame s.cfg id p
  sampler : t.sampler = s.sampler
  requests : t.requests = s.requests
  answered : Answered s.env (.write (commandFrame s.cfg id p) :: evs) t.env
  outgoing : t.env.wire ++ t.env.outBuf = s.env.wire ++ s.env.outBuf ++ commandFrame s.cfg id p
  incoming : ∃ k, bytesRead evs ++ stream t.env = stream s.env ++ s.env.lineEnd.bytes k
  lineEnd : t.env.lineEnd = s.env.lineEnd
  clock : t.env.clock = s.env.clock ∧ t.env.clockEnd = s.env.clockEnd

/-- The answer of a reception is a valid echo for the command id `n` (`echo_ok` of R96): a frame that passed the checks,
of type 0xC5 and, with ECHO_ID_CHECK, with the command id in its first data byte. -/
def ValidEcho (cfg : Cfg) (n : Byte) (r : Except FailCode ResponseFrame) : Prop :=
  ∃ f, r = .ok f ∧ f.rtype = 0xC5 ∧ (cfg.echoIdCheck = true → f.d0 = n)

/-- What the rounds of a cycle may show (R110 step 2, R113), when `k` of them are to run: their events, the
measurements collected, and whether a failed round ended them. -/
inductive Rounds (cfg : Cfg) : Nat → List Event → List Measurement → Bool → Prop where
  /-- No round is left. -/
  | complete : Rounds cfg 0 [] [] false
  /-- A good round: the wait, the query, one reception, a measurement. -/
  | good (k : Nat) (evs rest : List Event) (f : ResponseFrame) (m : Measurement) (ms : List Measurement)
      (aborted : Bool) (hr : Reception cfg evs (.ok f)) (hm : toMeasurement f = .ok m)
      (h : Rounds cfg k rest ms aborted) :
      Rounds cfg (k + 1)
        ([.wait .interSample, .write (commandFrame cfg .queryData cfg.plQuery)] ++ evs ++ rest) (m :: ms) aborted
  /-- The first failed round: no frame, or one that is no data report; then the recovery action, and no further
  round. -/
  | failed (k : Nat) (evs : List Event) (r : Except FailCode ResponseFrame) (hr : Reception cfg evs r)
      (hf : ∀ f, r = .ok f → f.rtype ≠ typeData) :
      Rounds cfg (k + 1)
        ([.wait .interSample, .write (commandFrame cfg .queryData cfg.plQuery)] ++ evs ++
          [.wait .recovery, .resetIn, .resetOut, .reopen]) [] true

/-- The session after a mode-set command (R97): written exactly on a valid echo; a frame row's payload that stands for
no mode writes nothing. -/
def sessionAfterMode (x : Session) (ok : Bool) (mode : Option Bool) : Session :=
  match ok, mode with
  | true, some active => ⟨true, some (if active then .modeActive else .modeQuery), x.power⟩
  | true, none => x
  | false, _ => x

/-- The session after a sleep command (R98), in the same way. -/
def sessionAfterSleep (x : Session) (ok : Bool) (sleep : Option Bool) : Session :=
  match ok, sleep with
  | true, some b => ⟨x.configured, x.reportMode, some (if b then .sleep else .work)⟩
  | true, none => x
  | false, _ => x

/-- The session after the wake, mode and sleep commands of a cycle, given whether each echo was valid (R97, R98). -/
def sessionAfterCycle (x : Session) (wakeOk modeOk sleepOk : Bool) : Session where
  configured := x.configured || modeOk
  reportMode := if modeOk then some .modeQuery else x.reportMode
  power := if sleepOk then some .sleep else if wakeOk then some .work else x.power

/-! ### Between operations -/

/-- What holds of the frame buffers and the sequencing state whenever no operation is in progress (R12, R13, R18):
the buffers have their widths, both phases are IDLE, at most nine body bytes were counted. -/
def Settled (s : State) : Prop :=
  s.txFrame.length = cmdLen ∧ s.rxFrame.length = rspLen ∧
    s.rx.phase = .idle ∧ s.rx.rxCount ≤ 9 ∧ s.sampler.phase = .idle

/-- What holds of the session shadow (R14, R15, R97): configured exactly when a report mode has been established. -/
def SessionConsistent (s : State) : Prop := s.session.configured = true ↔ s.session.reportMode.isSome = true

/-- What holds of the sampler between cycles (R17, R18, R19, R113): at most one recovery, at most N rounds, and every
round either gave an entry of the batch or was the one that failed. -/
def SamplerConsistent (s : State) : Prop :=
  s.sampler.recoveryCount ≤ 1 ∧ s.sampler.round ≤ s.cfg.nSamples ∧
    s.sampler.batch.length + s.sampler.recoveryCount = s.sampler.round

/-- The invariant of the machine between two operations. -/
def Inv (s : State) : Prop := Settled s ∧ SessionConsistent s ∧ SamplerConsistent s ∧ TraceConforms s

/-! ### Premises -/

/-- The premise under which one header scan from this environment ends (R45, 92_eei_decisions.md premise 4): there is a
bound SCAN_MAX, or the environment answers a 1-byte read with nothing or with a header after finitely many others. -/
def ScanEnds (cfg : Cfg) (e : Env) : Prop :=
  cfg.scanMax.isSome = true ∨
    ∃ k, ((afterReads e (List.replicate k 1)).read 1).1 = [] ∨
      ((afterReads e (List.replicate k 1)).read 1).1 = [header]

/-- The premise under which every header scan ends, however many an operation makes: there is a bound SCAN_MAX, or the
line is not noise for ever. -/
def LineSettles (s : State) : Prop :=
  s.cfg.scanMax.isSome = true ∨ s.env.lineEnd = .quiet ∨ s.env.lineEnd = .noise header

/-- CFG has legal values (R11). -/
def ConfigLegal (s : State) : Prop := cfgLegal s.cfg = true

/-- Noise, a header, a nine-byte body and further bytes wait in the input buffer, and no scheduled step of the line
comes between: the reference transport (R47) with a whole frame ready. -/
def FrameWaits (s : State) (noise body rest : List Byte) : Prop :=
  s.env.line = [] ∧ s.env.inBuf = noise ++ header :: (body ++ rest) ∧ IsNoise s.cfg noise ∧ body.length = 9

/-- Whatever the line does meanwhile, the next reads are answered with this noise byte by byte, a header and, for nine
bytes, this body, of any length up to nine; the environment is `e'` afterwards. -/
def FrameArrives (cfg : Cfg) (e : Env) (noise body : List Byte) (e' : Env) : Prop :=
  Answered e (noise.map (fun b => .read 1 [b]) ++ [.read 1 [header], .read 9 body]) e' ∧ IsNoise cfg noise

/-- Whatever the line does meanwhile, the next reads meet this noise and no header, as the events `evs` (R92, R45): a
1-byte read comes back empty behind noise within SCAN_MAX, or noise byte number SCAN_MAX + 1 is met; the environment
is `e'` afterwards. -/
def HeaderMissed (cfg : Cfg) (e : Env) (noise : List Byte) (evs : List Event) (e' : Env) : Prop :=
  Answered e evs e' ∧
    ((evs = noise.map (fun b => .read 1 [b]) ++ [.read 1 []] ∧ IsNoise cfg noise) ∨
      (evs = noise.map (fun b => .read 1 [b]) ∧ (∀ b ∈ noise, b ≠ header) ∧
        ∃ m, cfg.scanMax = some m ∧ noise.length = m + 1))

/-- The body of a valid echo for the command id `n`, byte by byte (R58, R59, R96). -/
def SealedEcho (cfg : Cfg) (n : Byte) (body : List Byte) : Prop :=
  ∃ d0 d1 d2 d3 i0 i1 cs : Byte, body = [0xC5, d0, d1, d2, d3, i0, i1, cs, 0xAB] ∧
    cs.toNat = (d0.toNat + d1.toNat + d2.toNat + d3.toNat + i0.toNat + i1.toNat) % 256 ∧
    (cfg.echoIdCheck = true → d0 = n)

/-- `s` after a round trip of this command id and payload that met this noise and this body and left the environment
at `e`, the session and the output left aside (R94, R92; that `rx_count` holds the number of body bytes afterwards is
the model's reading, log entry 16). -/
def roundTripped (s : State) (id : CmdId) (p noise body : List Byte) (e : Env) : State :=
  { s with
    env := e
    trace := s.trace ++ .write (commandFrame s.cfg id p) ::
      (noise.map (fun b => .read 1 [b]) ++ [.read 1 [header], .read 9 body])
    txFrame := commandFrame s.cfg id p
    rx := ⟨.idle, noise.length, body.length⟩
    rxFrame := if body.length = 9 then header :: body else s.rxFrame }

/-- `s` after a round trip of this command id and payload that met this noise and no header, as the events `evs`, and
left the environment at `e`, the session and the output left aside: `rx_frame` is kept (R94, R92; that `rx_count` is 0
afterwards is the model's reading, log entry 16). -/
def roundTripMissed (s : State) (id : CmdId) (p noise : List Byte) (evs : List Event) (e : Env) : State :=
  { s with
    env := e
    trace := s.trace ++ .write (commandFrame s.cfg id p) :: evs
    txFrame := commandFrame s.cfg id p
    rx := ⟨.idle, noise.length, 0⟩ }

/-- Two states in which the engine has the same configuration and meets the same environment; everything else,
transient or not, may differ (R24, R46). -/
def SameInputs (s t : State) : Prop := s.cfg = t.cfg ∧ s.env = t.env

end Sys2Proof.Machine
end

