-- ==== Sys2Proof/Certificates/Slice0/Obligations.lean ====
section
/-! DEFINITION. The statements for the provers. Each docstring names the rule of spec/ it formalises, or the sections
it rests on. A statement about every state is a statement about every CFG and every environment R32, R35 and R142
allow, since both stand in State. -/

open Sys2Proof Sys2Proof.Machine

/-! ### The Frame Codec -/

/-- R77: ENCODE_COMMAND. A payload of at most 12 bytes gives the 19-byte frame, also left in `tx_frame`; a longer one
gives CONSTRUCTION_ERROR and writes nothing; nothing else changes either way. -/
def Obligations.EncodeCommandBuildsTheFrame : Prop :=
  ∀ (id : CmdId) (p : List Byte) (s : State),
    (p.length ≤ 12 → ∃ (cs : Byte) (t : List Byte),
      cs.toNat = ((cmdIdByte id).toNat + (p.map BitVec.toNat).sum + s.cfg.dest0.toNat + s.cfg.dest1.toNat) % 256 ∧
      t = [0xAA, 0xB4, cmdIdByte id] ++ p ++ List.replicate (12 - p.length) 0x00 ++
        [s.cfg.dest0, s.cfg.dest1, cs, 0xAB] ∧
      t.length = 19 ∧
      exec (.encodeCommand id p) s = .next { s with txFrame := t, output := some ⟨.command t, .ok⟩ }) ∧
    (12 < p.length →
      exec (.encodeCommand id p) s = .next { s with output := some ⟨.failed, .constructionError⟩ })

/-- R56: byte 17 of a command frame is the sum of bytes 2 to 16, and with the default destination that is the command
id, the payload and 254, mod 256. -/
def Obligations.CommandChecksumCoversIdPayloadDestination : Prop :=
  ∀ (id : CmdId) (p : List Byte) (s : State), p.length ≤ 12 → ∃ (t : List Byte) (u : State),
    exec (.encodeCommand id p) s = .next u ∧ u.output = some ⟨.command t, .ok⟩ ∧
    t.getD 2 0 = cmdIdByte id ∧
    (t.getD 17 0).toNat = (((t.drop 2).take 15).map BitVec.toNat).sum % 256 ∧
    (s.cfg.dest0 = 0xFF → s.cfg.dest1 = 0xFF →
      (t.getD 17 0).toNat = ((cmdIdByte id).toNat + (p.map BitVec.toNat).sum + 254) % 256)

/-- R78: DECODE_RESPONSE. Fewer than nine bytes are TRUNCATED; otherwise `rx_frame` is the header and the first nine,
and the checksum, then the tail, are checked; the response type and the device id are not. -/
def Obligations.DecodeResponseChecksInOrder : Prop :=
  ∀ (body : List Byte) (s : State),
    exec (.decodeResponse body) s =
      if body.length < 9 then .next { s with output := some ⟨.failed, .truncated⟩ }
      else if (body.getD 7 0).toNat ≠
          ((body.getD 1 0).toNat + (body.getD 2 0).toNat + (body.getD 3 0).toNat + (body.getD 4 0).toNat +
            (body.getD 5 0).toNat + (body.getD 6 0).toNat) % 256 then
        .next { s with rxFrame := 0xAA :: body.take 9, output := some ⟨.failed, .badChecksum⟩ }
      else if body.getD 8 0 ≠ 0xAB then
        .next { s with rxFrame := 0xAA :: body.take 9, output := some ⟨.failed, .badTail⟩ }
      else
        .next { s with
          rxFrame := 0xAA :: body.take 9
          output := some ⟨.response ⟨body.getD 0 0, body.getD 1 0, body.getD 2 0, body.getD 3 0, body.getD 4 0,
            body.getD 5 0, body.getD 6 0, body.getD 7 0, body.getD 8 0⟩, .ok⟩ }

/-- R79, R60: DECODE_MEASUREMENT. A data report gives PM2.5 from its first two data bytes and PM10 from the next two,
low byte first, zero-extended; any other type gives NOT_DATA_REPORT; nothing else changes. -/
def Obligations.DecodeMeasurementIsLittleEndian : Prop :=
  ∀ (f : ResponseFrame) (s : State),
    (f.rtype = 0xC0 → ∃ m : Measurement,
      m.pm25Raw.toNat = f.d0.toNat + 256 * f.d1.toNat ∧ m.pm10Raw.toNat = f.d2.toNat + 256 * f.d3.toNat ∧
      exec (.decodeMeasurement f) s = .next { s with output := some ⟨.measurement m, .ok⟩ }) ∧
    (f.rtype ≠ 0xC0 →
      exec (.decodeMeasurement f) s = .next { s with output := some ⟨.failed, .notDataReport⟩ })

/-! ### The response frame rows -/

/-- The DATA_REPORT row (R78, R79; that a row's word is checked and not received is the model's choice, log entry 6):
a right checksum gives the measurement, a wrong one BAD_CHECKSUM; `rx_frame` holds the frame. -/
def Obligations.DataReportRowGivesItsMeasurement : Prop :=
  ∀ (f : ReportFields) (s : State),
    (f.checksum.toNat =
        (f.d0.toNat + f.d1.toNat + f.d2.toNat + f.d3.toNat + f.id0.toNat + f.id1.toNat) % 256 →
      ∃ m : Measurement,
        m.pm25Raw.toNat = f.d0.toNat + 256 * f.d1.toNat ∧ m.pm10Raw.toNat = f.d2.toNat + 256 * f.d3.toNat ∧
        exec (.dataReport f) s = .next { s with
          rxFrame := [0xAA, 0xC0, f.d0, f.d1, f.d2, f.d3, f.id0, f.id1, f.checksum, 0xAB]
          output := some ⟨.measurement m, .ok⟩ }) ∧
    (f.checksum.toNat ≠
        (f.d0.toNat + f.d1.toNat + f.d2.toNat + f.d3.toNat + f.id0.toNat + f.id1.toNat) % 256 →
      exec (.dataReport f) s = .next { s with
        rxFrame := [0xAA, 0xC0, f.d0, f.d1, f.d2, f.d3, f.id0, f.id1, f.checksum, 0xAB]
        output := some ⟨.failed, .badChecksum⟩ })

/-- The COMMAND_ECHO row (R78, R96; that its result is the set of commands it is a valid echo for is the model's
choice, log entry 6): without ECHO_ID_CHECK every command, with it the command whose id is the first data byte. -/
def Obligations.CommandEchoRowChecksTheEcho : Prop :=
  ∀ (f : ReportFields) (s : State),
    (f.checksum.toNat =
        (f.d0.toNat + f.d1.toNat + f.d2.toNat + f.d3.toNat + f.id0.toNat + f.id1.toNat) % 256 →
      ∃ ids : List CmdId,
        (∀ id, id ∈ ids ↔ (s.cfg.echoIdCheck = false ∨ f.d0 = cmdIdByte id)) ∧
        exec (.commandEcho f) s = .next { s with
          rxFrame := [0xAA, 0xC5, f.d0, f.d1, f.d2, f.d3, f.id0, f.id1, f.checksum, 0xAB]
          output := some ⟨.echoFor ids, .ok⟩ }) ∧
    (f.checksum.toNat ≠
        (f.d0.toNat + f.d1.toNat + f.d2.toNat + f.d3.toNat + f.id0.toNat + f.id1.toNat) % 256 →
      exec (.commandEcho f) s = .next { s with
        rxFrame := [0xAA, 0xC5, f.d0, f.d1, f.d2, f.d3, f.id0, f.id1, f.checksum, 0xAB]
        output := some ⟨.failed, .badChecksum⟩ })

/-! ### RECEIVE_FRAME -/

/-- R92: RECEIVE_FRAME returns wherever its scan ends (R45), having shown one reception, with that reception's frame
or the code of its failure; every read shows what the environment answered to it, `rx_frame` and `scan_count` are what
the reads say, on any line the bytes read are the front of the stream and nothing is put back, the session is not
touched and nothing is sent. -/
def Obligations.ReceiveFrameShowsOneReception : Prop :=
  ∀ s : State, ScanEnds s.cfg s.env → ∃ (evs : List Event) (r : Except FailCode ResponseFrame) (t : State),
    exec .receiveFrame s = .next t ∧ Reception s.cfg evs r ∧ Receives evs s t ∧ t.session = s.session ∧
    t.output = some (match r with
      | .ok f => ⟨.received (some f), .ok⟩
      | .error c => ⟨.received none, c⟩)

/-- R92, R93, R38 (source example S8): a frame already buffered behind noise, with no step of the line to come, is
found: one read per noise byte, one for the header, one of nine bytes; what lies behind the frame stays queued. Every
effect is named; that `rx_count` is 9 afterwards is the model's reading (log entry 16, DEDUCED). -/
def Obligations.ReceiveFrameFindsTheFrameBehindNoise : Prop :=
  ∀ (s : State) (noise body rest : List Byte), FrameWaits s noise body rest →
    exec .receiveFrame s = .next { s with
      env := { s.env with inBuf := rest }
      trace := s.trace ++ noise.map (fun b => .read 1 [b]) ++ [.read 1 [0xAA], .read 9 body]
      rx := ⟨.idle, noise.length, 9⟩
      rxFrame := 0xAA :: body
      output := some (match checkBody body with
        | .ok f => ⟨.received (some f), .ok⟩
        | .error c => ⟨.received none, c⟩) }

/-- R45, U17: RECEIVE_FRAME never returns (a stuck state of the model, log entry 11) exactly where its scan does not
end; that is so with no bound SCAN_MAX, no header at hand, nothing scheduled and a line that is noise for ever. -/
def Obligations.EndlessNoiseNeverReturns : Prop :=
  (∀ s : State, exec .receiveFrame s = .fault .scanNeverEnds ↔ ¬ ScanEnds s.cfg s.env) ∧
  (∀ (s : State) (b : Byte), s.cfg.scanMax = none → s.env.line = [] → (∀ x ∈ s.env.inBuf, x ≠ 0xAA) →
    s.env.lineEnd = .noise b → b ≠ 0xAA → exec .receiveFrame s = .fault .scanNeverEnds)

/-- R45, R92: with SCAN_MAX = Some m, noise byte number m + 1 ends the scan and is consumed, however the bytes arrive;
of bytes already buffered the rest stays queued. Every effect is named; that `rx_count` is 0 after a scan that found
no header is the model's reading (log entry 16, DEDUCED). -/
def Obligations.ScanMaxEndsTheScan : Prop :=
  (∀ (s : State) (m : Nat) (noise : List Byte) (e : Env), s.cfg.scanMax = some m → noise.length = m + 1 →
    (∀ b ∈ noise, b ≠ 0xAA) → Answered s.env (noise.map (fun b => .read 1 [b])) e →
    exec .receiveFrame s = .next { s with
      env := e
      trace := s.trace ++ noise.map (fun b => .read 1 [b])
      rx := ⟨.idle, m + 1, 0⟩
      output := some ⟨.received none, .noHeader⟩ }) ∧
  (∀ (s : State) (m : Nat) (noise rest : List Byte), s.cfg.scanMax = some m → s.env.line = [] →
    s.env.inBuf = noise ++ rest → noise.length = m + 1 → (∀ b ∈ noise, b ≠ 0xAA) →
    exec .receiveFrame s = .next { s with
      env := { s.env with inBuf := rest }
      trace := s.trace ++ noise.map (fun b => .read 1 [b])
      rx := ⟨.idle, m + 1, 0⟩
      output := some ⟨.received none, .noHeader⟩ })

/-! ### The commands of the Device Session -/

/-- R97, R96: SET_REPORT_MODE is one round trip and returns wherever the scan after its write ends (R45); on a valid
echo, and only then, the session is configured and its report mode is the one asked for. -/
def Obligations.SetReportModeFollowsTheEcho : Prop :=
  ∀ (active : Bool) (s : State), ConfigLegal s →
    ScanEnds s.cfg (s.env.write
      (commandFrame s.cfg .modeSet (if active then s.cfg.plModeActive else s.cfg.plModeQuery))) →
    ∃ (evs : List Event) (r : Except FailCode ResponseFrame) (t : State),
      exec (.setReportMode active) s = .next t ∧ Reception s.cfg evs r ∧
      Commanded .modeSet (if active then s.cfg.plModeActive else s.cfg.plModeQuery) evs s t ∧
      (ValidEcho s.cfg 2 r →
        t.session = ⟨true, some (if active then .modeActive else .modeQuery), s.session.power⟩ ∧
        t.output = some ⟨.flag true, .ok⟩) ∧
      (¬ ValidEcho s.cfg 2 r → t.session = s.session ∧ t.output = some ⟨.flag false, .echoInvalid⟩)

/-- R98, R96: SET_SLEEP is one round trip and returns wherever the scan after its write ends (R45); on a valid echo,
and only then, the power shadow is the one asked for. -/
def Obligations.SetSleepFollowsTheEcho : Prop :=
  ∀ (sleep : Bool) (s : State), ConfigLegal s →
    ScanEnds s.cfg (s.env.write (commandFrame s.cfg .sleep (if sleep then s.cfg.plSleep else s.cfg.plWake))) →
    ∃ (evs : List Event) (r : Except FailCode ResponseFrame) (t : State),
      exec (.setSleep sleep) s = .next t ∧ Reception s.cfg evs r ∧
      Commanded .sleep (if sleep then s.cfg.plSleep else s.cfg.plWake) evs s t ∧
      (ValidEcho s.cfg 6 r →
        t.session = ⟨s.session.configured, s.session.reportMode, some (if sleep then .sleep else .work)⟩ ∧
        t.output = some ⟨.flag true, .ok⟩) ∧
      (¬ ValidEcho s.cfg 6 r → t.session = s.session ∧ t.output = some ⟨.flag false, .echoInvalid⟩)

/-- R99: QUERY is one round trip and returns wherever the scan after its write ends (R45); a valid data report gives
its measurement, anything else `None` with the first failing check's code. -/
def Obligations.QueryReturnsTheReport : Prop :=
  ∀ s : State, ConfigLegal s → ScanEnds s.cfg (s.env.write (commandFrame s.cfg .queryData s.cfg.plQuery)) →
    ∃ (evs : List Event) (r : Except FailCode ResponseFrame) (t : State),
      exec .query s = .next t ∧ Reception s.cfg evs r ∧ Commanded .queryData s.cfg.plQuery evs s t ∧
      t.session = s.session ∧
      (∀ c, r = .error c → t.output = some ⟨.queried none, c⟩) ∧
      (∀ f, r = .ok f → f.rtype ≠ 0xC0 → t.output = some ⟨.queried none, .notDataReport⟩) ∧
      (∀ f, r = .ok f → f.rtype = 0xC0 → ∃ m : Measurement,
        m.pm25Raw.toNat = f.d0.toNat + 256 * f.d1.toNat ∧ m.pm10Raw.toNat = f.d2.toNat + 256 * f.d3.toNat ∧
        t.output = some ⟨.queried (some m), .ok⟩)

/-- R100, R101, R102, R96: SET_WORKING_PERIOD, READ_FIRMWARE and DEVICE_ID are one round trip each and return wherever
the scan after their write ends (R45); a valid echo is the result, anything else is `None` with ECHO_INVALID; the
session is not written. -/
def Obligations.RawEchoCommandsReturnTheEcho : Prop :=
  ∀ (i : Instr) (id : CmdId) (n : Byte) (p : List Byte) (s : State), ConfigLegal s →
    ((∃ b, i = .setWorkingPeriod b ∧ id = .workingPeriod ∧ n = 8 ∧ p = payloadOf s.cfg.plWorkingPeriod [b]) ∨
      (i = .readFirmware ∧ id = .firmware ∧ n = 7 ∧ p = s.cfg.plFirmware) ∨
      (∃ k a, i = .deviceId k a ∧ k ∈ s.cfg.plDeviceId.lengths ∧ id = .deviceId ∧ n = 5 ∧
        p = payloadOf s.cfg.plDeviceId a.toList)) →
    ScanEnds s.cfg (s.env.write (commandFrame s.cfg id p)) →
    ∃ (evs : List Event) (r : Except FailCode ResponseFrame) (t : State),
      exec i s = .next t ∧ Reception s.cfg evs r ∧ Commanded id p evs s t ∧ t.session = s.session ∧
      (∀ f, r = .ok f → ValidEcho s.cfg n r → t.output = some ⟨.received (some f), .ok⟩) ∧
      (¬ ValidEcho s.cfg n r → t.output = some ⟨.received none, .echoInvalid⟩)

/-- R97, R98: where a valid echo is already buffered, with no step of the line to come, SET_REPORT_MODE and SET_SLEEP
succeed; every effect is named; that `rx_count` is 9 afterwards is the model's reading (log entry 16, DEDUCED). -/
def Obligations.SetCommandsSucceedOnAWaitingEcho : Prop :=
  ∀ (s : State) (noise rest : List Byte) (d0 d1 d2 d3 i0 i1 : Byte) (b : Bool), ConfigLegal s →
    FrameWaits s noise (frameBody (sealedFrame 0xC5 d0 d1 d2 d3 i0 i1)) rest →
    ((s.cfg.echoIdCheck = true → d0 = 2) →
      exec (.setReportMode b) s = .next { s with
        env := { s.env with
          inBuf := rest
          outBuf := s.env.outBuf ++
            commandFrame s.cfg .modeSet (if b then s.cfg.plModeActive else s.cfg.plModeQuery) }
        trace := s.trace ++
          .write (commandFrame s.cfg .modeSet (if b then s.cfg.plModeActive else s.cfg.plModeQuery)) ::
          (noise.map (fun x => .read 1 [x]) ++
            [.read 1 [0xAA], .read 9 (frameBody (sealedFrame 0xC5 d0 d1 d2 d3 i0 i1))])
        txFrame := commandFrame s.cfg .modeSet (if b then s.cfg.plModeActive else s.cfg.plModeQuery)
        rxFrame := 0xAA :: frameBody (sealedFrame 0xC5 d0 d1 d2 d3 i0 i1)
        rx := ⟨.idle, noise.length, 9⟩
        session := ⟨true, some (if b then .modeActive else .modeQuery), s.session.power⟩
        output := some ⟨.flag true, .ok⟩ }) ∧
    ((s.cfg.echoIdCheck = true → d0 = 6) →
      exec (.setSleep b) s = .next { s with
        env := { s.env with
          inBuf := rest
          outBuf := s.env.outBuf ++ commandFrame s.cfg .sleep (if b then s.cfg.plSleep else s.cfg.plWake) }
        trace := s.trace ++ .write (commandFrame s.cfg .sleep (if b then s.cfg.plSleep else s.cfg.plWake)) ::
          (noise.map (fun x => .read 1 [x]) ++
            [.read 1 [0xAA], .read 9 (frameBody (sealedFrame 0xC5 d0 d1 d2 d3 i0 i1))])
        txFrame := commandFrame s.cfg .sleep (if b then s.cfg.plSleep else s.cfg.plWake)
        rxFrame := 0xAA :: frameBody (sealedFrame 0xC5 d0 d1 d2 d3 i0 i1)
        rx := ⟨.idle, noise.length, 9⟩
        session := ⟨s.session.configured, s.session.reportMode, some (if b then .sleep else .work)⟩
        output := some ⟨.flag true, .ok⟩ })

/-- R99: where a data report is already buffered, with no step of the line to come, QUERY answers its measurement; every
effect is named; that `rx_count` is 9 afterwards is the model's reading (log entry 16, DEDUCED). -/
def Obligations.QueryAnswersAWaitingReport : Prop :=
  ∀ (s : State) (noise rest : List Byte) (d0 d1 d2 d3 i0 i1 : Byte), ConfigLegal s →
    FrameWaits s noise (frameBody (sealedFrame 0xC0 d0 d1 d2 d3 i0 i1)) rest →
    ∃ m : Measurement,
      m.pm25Raw.toNat = d0.toNat + 256 * d1.toNat ∧ m.pm10Raw.toNat = d2.toNat + 256 * d3.toNat ∧
      exec .query s = .next { s with
        env := { s.env with
          inBuf := rest
          outBuf := s.env.outBuf ++ commandFrame s.cfg .queryData s.cfg.plQuery }
        trace := s.trace ++ .write (commandFrame s.cfg .queryData s.cfg.plQuery) ::
          (noise.map (fun x => .read 1 [x]) ++
            [.read 1 [0xAA], .read 9 (frameBody (sealedFrame 0xC0 d0 d1 d2 d3 i0 i1))])
        txFrame := commandFrame s.cfg .queryData s.cfg.plQuery
        rxFrame := 0xAA :: frameBody (sealedFrame 0xC0 d0 d1 d2 d3 i0 i1)
        rx := ⟨.idle, noise.length, 9⟩
        output := some ⟨.queried (some m), .ok⟩ }

/-- R100, R101, R102: where a valid echo is already buffered, with no step of the line to come, SET_WORKING_PERIOD,
READ_FIRMWARE and DEVICE_ID answer it; every effect is named; that `rx_count` is 9 afterwards is the model's reading
(log entry 16, DEDUCED). -/
def Obligations.RawEchoCommandsAnswerAWaitingEcho : Prop :=
  ∀ (i : Instr) (id : CmdId) (p : List Byte) (s : State) (noise rest : List Byte) (d0 d1 d2 d3 i0 i1 : Byte),
    ConfigLegal s →
    ((∃ b, i = .setWorkingPeriod b ∧ id = .workingPeriod ∧ p = payloadOf s.cfg.plWorkingPeriod [b]) ∨
      (i = .readFirmware ∧ id = .firmware ∧ p = s.cfg.plFirmware) ∨
      (∃ k a, i = .deviceId k a ∧ k ∈ s.cfg.plDeviceId.lengths ∧ id = .deviceId ∧
        p = payloadOf s.cfg.plDeviceId a.toList)) →
    FrameWaits s noise (frameBody (sealedFrame 0xC5 d0 d1 d2 d3 i0 i1)) rest →
    (s.cfg.echoIdCheck = true → d0 = cmdIdByte id) →
    exec i s = .next { s with
      env := { s.env with inBuf := rest, outBuf := s.env.outBuf ++ commandFrame s.cfg id p }
      trace := s.trace ++ .write (commandFrame s.cfg id p) ::
        (noise.map (fun x => .read 1 [x]) ++
          [.read 1 [0xAA], .read 9 (frameBody (sealedFrame 0xC5 d0 d1 d2 d3 i0 i1))])
      txFrame := commandFrame s.cfg id p
      rxFrame := 0xAA :: frameBody (sealedFrame 0xC5 d0 d1 d2 d3 i0 i1)
      rx := ⟨.idle, noise.length, 9⟩
      output := some ⟨.received (some (sealedFrame 0xC5 d0 d1 d2 d3 i0 i1)), .ok⟩ }

/-- R104, R33 to R35: RESYNCHRONIZE shows ResetIn, ResetOut, Reopen and changes nothing of the engine; of the bytes
that had still to leave, some first ones have left and the others are gone; the buffers hold afterwards what the
reopen left in them (log entry 2). -/
def Obligations.ResynchronizeResetsAndReopens : Prop :=
  ∀ s : State, ∃ (e : Env) (k : Nat),
    exec .resynchronize s = .next { s with
      env := e
      trace := s.trace ++ [.resetIn, .resetOut, .reopen]
      output := some ⟨.nothing, .ok⟩ } ∧
    (e.inBuf, e.outBuf) = s.env.reopened.headD ([], []) ∧
    e.wire = s.env.wire ++ s.env.outBuf.take k ∧
    e.lineEnd = s.env.lineEnd ∧ e.clock = s.env.clock ∧ e.clockEnd = s.env.clockEnd

/-- R156, R96, R64 (V57): the oldest unread frame is the answer, and it is consumed. A QUERY that meets a frame of any
type but 0xC0 answers `None`; a command that awaits an echo and meets a frame of any type but 0xC5, or with
ECHO_ID_CHECK an echo of another command, fails; no session is written. -/
def Obligations.StaleFramesAreTakenAsAnswers : Prop :=
  ∀ (s : State) (rest : List Byte) (rtype d0 d1 d2 d3 i0 i1 : Byte), ConfigLegal s →
    FrameWaits s [] (frameBody (sealedFrame rtype d0 d1 d2 d3 i0 i1)) rest →
    (rtype ≠ 0xC0 → ∃ t, exec .query s = .next t ∧ t.output = some ⟨.queried none, .notDataReport⟩ ∧
      t.env.inBuf = rest ∧ t.session = s.session) ∧
    (∀ b, (rtype ≠ 0xC5 ∨ (s.cfg.echoIdCheck = true ∧ d0 ≠ 2)) →
      ∃ t, exec (.setReportMode b) s = .next t ∧ t.output = some ⟨.flag false, .echoInvalid⟩ ∧
        t.env.inBuf = rest ∧ t.session = s.session) ∧
    (∀ b, (rtype ≠ 0xC5 ∨ (s.cfg.echoIdCheck = true ∧ d0 ≠ 6)) →
      ∃ t, exec (.setSleep b) s = .next t ∧ t.output = some ⟨.flag false, .echoInvalid⟩ ∧
        t.env.inBuf = rest ∧ t.session = s.session) ∧
    (∀ (i : Instr) (n : Byte),
      ((∃ p, i = .setWorkingPeriod p ∧ n = 8) ∨ (i = .readFirmware ∧ n = 7) ∨
        (∃ k a, i = .deviceId k a ∧ k ∈ s.cfg.plDeviceId.lengths ∧ n = 5)) →
      (rtype ≠ 0xC5 ∨ (s.cfg.echoIdCheck = true ∧ d0 ≠ n)) →
      ∃ t, exec i s = .next t ∧ t.output = some ⟨.received none, .echoInvalid⟩ ∧
        t.env.inBuf = rest ∧ t.session = s.session)

/-! ### The command frame rows -/

/-- CMD_MODE_SET and CMD_SLEEP (R97, R98 with this frame's payload, R95; that executing such a row is the round trip,
with CFG's destination and the computed checksum, is the model's choice, log entry 7; which mode or power state a
payload stands for is the model's reading, log entry 8): wherever the scan after the write ends, one round trip that
carries the frame's payload; on a valid echo the session follows the payload, and a payload that stands for neither
operand writes no session. -/
def Obligations.SetFrameRowsFollowTheEcho : Prop :=
  ∀ (f : CommandFields) (s : State), f.payload.length = 12 →
    (ScanEnds s.cfg (s.env.write (commandFrame s.cfg .modeSet f.payload)) →
      ∃ (evs : List Event) (r : Except FailCode ResponseFrame) (t : State),
        exec (.cmdModeSet f) s = .next t ∧ Reception s.cfg evs r ∧ Commanded .modeSet f.payload evs s t ∧
        (ValidEcho s.cfg 2 r →
          t.session = sessionAfterMode s.session true (operandOf s.cfg.plModeActive s.cfg.plModeQuery f.payload) ∧
          t.output = some ⟨.flag true, .ok⟩) ∧
        (¬ ValidEcho s.cfg 2 r → t.session = s.session ∧ t.output = some ⟨.flag false, .echoInvalid⟩)) ∧
    (ScanEnds s.cfg (s.env.write (commandFrame s.cfg .sleep f.payload)) →
      ∃ (evs : List Event) (r : Except FailCode ResponseFrame) (t : State),
        exec (.cmdSleep f) s = .next t ∧ Reception s.cfg evs r ∧ Commanded .sleep f.payload evs s t ∧
        (ValidEcho s.cfg 6 r →
          t.session = sessionAfterSleep s.session true (operandOf s.cfg.plSleep s.cfg.plWake f.payload) ∧
          t.output = some ⟨.flag true, .ok⟩) ∧
        (¬ ValidEcho s.cfg 6 r → t.session = s.session ∧ t.output = some ⟨.flag false, .echoInvalid⟩))

/-- CMD_QUERY_DATA, CMD_DEVICE_ID, CMD_FIRMWARE and CMD_WORKING_PERIOD (R99 to R102 with this frame's payload, R95; that
executing such a row is the round trip is the model's choice, log entry 7): wherever the scan after the write ends,
one round trip that carries the frame's payload, with the row's rule applied to the answer. -/
def Obligations.OtherFrameRowsAnswerTheirRule : Prop :=
  ∀ (f : CommandFields) (s : State), f.payload.length = 12 →
    (ScanEnds s.cfg (s.env.write (commandFrame s.cfg .queryData f.payload)) →
      ∃ (evs : List Event) (r : Except FailCode ResponseFrame) (t : State),
        exec (.cmdQueryData f) s = .next t ∧ Reception s.cfg evs r ∧ Commanded .queryData f.payload evs s t ∧
        t.session = s.session ∧
        (∀ c, r = .error c → t.output = some ⟨.queried none, c⟩) ∧
        (∀ x, r = .ok x → x.rtype ≠ 0xC0 → t.output = some ⟨.queried none, .notDataReport⟩) ∧
        (∀ x, r = .ok x → x.rtype = 0xC0 → ∃ m : Measurement,
          m.pm25Raw.toNat = x.d0.toNat + 256 * x.d1.toNat ∧ m.pm10Raw.toNat = x.d2.toNat + 256 * x.d3.toNat ∧
          t.output = some ⟨.queried (some m), .ok⟩)) ∧
    (∀ (i : Instr) (id : CmdId) (n : Byte),
      ((i = .cmdDeviceId f ∧ id = .deviceId ∧ n = 5) ∨ (i = .cmdFirmware f ∧ id = .firmware ∧ n = 7) ∨
        (i = .cmdWorkingPeriod f ∧ id = .workingPeriod ∧ n = 8)) →
      ScanEnds s.cfg (s.env.write (commandFrame s.cfg id f.payload)) →
      ∃ (evs : List Event) (r : Except FailCode ResponseFrame) (t : State),
        exec i s = .next t ∧ Reception s.cfg evs r ∧ Commanded id f.payload evs s t ∧ t.session = s.session ∧
        (∀ x, r = .ok x → ValidEcho s.cfg n r → t.output = some ⟨.received (some x), .ok⟩) ∧
        (¬ ValidEcho s.cfg n r → t.output = some ⟨.received none, .echoInvalid⟩))

/-- A command frame row is the operation that sends its frame (R69, R77, R97 to R102): where the payload field is the
operation's padded payload, the two do exactly the same, whatever the state. What executing a row does is the model's
choice (log entries 7 and 8). -/
def Obligations.FrameRowsEqualTheirOperations : Prop :=
  ∀ (f : CommandFields) (s : State), ConfigLegal s →
    (∀ b : Bool, pad12 s.cfg.plModeActive ≠ pad12 s.cfg.plModeQuery →
      f.payload = pad12 (if b then s.cfg.plModeActive else s.cfg.plModeQuery) →
      exec (.cmdModeSet f) s = exec (.setReportMode b) s) ∧
    (∀ b : Bool, pad12 s.cfg.plSleep ≠ pad12 s.cfg.plWake →
      f.payload = pad12 (if b then s.cfg.plSleep else s.cfg.plWake) →
      exec (.cmdSleep f) s = exec (.setSleep b) s) ∧
    (f.payload = pad12 s.cfg.plQuery → exec (.cmdQueryData f) s = exec .query s) ∧
    (f.payload = pad12 s.cfg.plFirmware → exec (.cmdFirmware f) s = exec .readFirmware s) ∧
    (∀ p : Byte, f.payload = pad12 (payloadOf s.cfg.plWorkingPeriod [p]) →
      exec (.cmdWorkingPeriod f) s = exec (.setWorkingPeriod p) s) ∧
    (∀ (k : Nat) (a : Vector Byte k), k ∈ s.cfg.plDeviceId.lengths →
      f.payload = pad12 (payloadOf s.cfg.plDeviceId a.toList) →
      exec (.cmdDeviceId f) s = exec (.deviceId k a) s)

/-! ### RUN_CYCLE -/

/-- R110 to R119, the whole cycle. With a legal CFG a cycle returns where every scan it makes ends, which is so with a
bound SCAN_MAX or on a line that is not noise for ever (R45); that it otherwise returns or is the stuck state of a scan
that never ends is the model's choice (log entry 11, DEDUCED), which neither R110 nor R116 says. And whatever the state, the trace of a cycle that returns is wake, settle wait, mode, the rounds, sleep, and then, if and
only if no round failed, the time stamp and one Publish of the two medians, PM10 first; then the alignment. The
session follows the three echoes, the sampler holds the batch, the result is the aggregate or `None`. -/
def Obligations.RunCycleRefinesItsFiveSteps : Prop :=
  (∀ s : State, ConfigLegal s →
    (LineSettles s → ∃ t, exec .runCycle s = .next t) ∧
    ((∃ t, exec .runCycle s = .next t) ∨ exec .runCycle s = .fault .scanNeverEnds)) ∧
  (∀ s t : State, exec .runCycle s = .next t →
    ∃ (e1 e2 er e3 new : List Event) (r1 r2 r3 : Except FailCode ResponseFrame) (w1 w2 w3 : Bool)
      (ms : List Measurement) (aborted : Bool),
      Reception s.cfg e1 r1 ∧ Reception s.cfg e2 r2 ∧ Rounds s.cfg s.cfg.nSamples er ms aborted ∧
      Reception s.cfg e3 r3 ∧
      (w1 = true ↔ ValidEcho s.cfg 6 r1) ∧ (w2 = true ↔ ValidEcho s.cfg 2 r2) ∧ (w3 = true ↔ ValidEcho s.cfg 6 r3) ∧
      t.cfg = s.cfg ∧ t.requests = s.requests ∧
      t.session = sessionAfterCycle s.session w1 w2 w3 ∧
      t.sampler = ⟨ms, ms.length + (if aborted then 1 else 0), if aborted then 1 else 0, .idle⟩ ∧
      t.trace = s.trace ++ new ∧
      new = [.write (commandFrame s.cfg .sleep s.cfg.plWake)] ++ e1 ++
        [.wait .settle, .write (commandFrame s.cfg .modeSet s.cfg.plModeQuery)] ++ e2 ++ er ++
        [.write (commandFrame s.cfg .sleep s.cfg.plSleep)] ++ e3 ++
        (if aborted then
          [.now s.env.clockAnswer, .wait (.align (wakeDelay s.cfg.period s.env.clockAnswer))]
        else
          [.now s.env.clockAnswer,
            .publish (medianOf (ms.map (fun m => m.pm10Raw.toNat)) / 10)
              (medianOf (ms.map (fun m => m.pm25Raw.toNat)) / 10),
            .now s.env.clockRead.clockAnswer,
            .wait (.align (wakeDelay s.cfg.period s.env.clockRead.clockAnswer))]) ∧
      t.txFrame = commandFrame s.cfg .sleep s.cfg.plSleep ∧ t.rxFrame = rxFrameAfter s.rxFrame new ∧
      t.output = some (if aborted then ⟨.cycle none, .incompleteBatch⟩
        else ⟨.cycle (some ⟨medianOf (ms.map (fun m => m.pm25Raw.toNat)) / 10,
          medianOf (ms.map (fun m => m.pm10Raw.toNat)) / 10, s.env.clockAnswer⟩), .ok⟩))

/-- R121, second property (source example S7): where two whole frames, N data reports and one more whole frame wait,
the cycle runs all N rounds, calls the sink exactly once and returns the aggregate of the N measurements. -/
def Obligations.CycleOfGoodRoundsReportsOnce : Prop :=
  ∀ (s : State) (b1 b2 b3 rest : List Byte) (fs : List ReportFields), ConfigLegal s → s.env.line = [] →
    b1.length = 9 → b2.length = 9 → b3.length = 9 → fs.length = s.cfg.nSamples →
    s.env.inBuf = (0xAA :: b1) ++ (0xAA :: b2) ++
      fs.flatMap (fun f => 0xAA :: frameBody (sealedFrame 0xC0 f.d0 f.d1 f.d2 f.d3 f.id0 f.id1)) ++
      (0xAA :: b3) ++ rest →
    ∃ (t : State) (new : List Event) (pm25 pm10 : Rat),
      exec .runCycle s = .next t ∧ t.trace = s.trace ++ new ∧
      pm25 = medianOf (fs.map (fun f => f.d0.toNat + 256 * f.d1.toNat)) / 10 ∧
      pm10 = medianOf (fs.map (fun f => f.d2.toNat + 256 * f.d3.toNat)) / 10 ∧
      t.output = some ⟨.cycle (some ⟨pm25, pm10, s.env.clockAnswer⟩), .ok⟩ ∧
      new.filter isPublish = [.publish pm10 pm25] ∧
      t.sampler.round = s.cfg.nSamples ∧ t.sampler.recoveryCount = 0 ∧ t.env.inBuf = rest

/-- R116, R118: whatever the state, a cycle that returns calls the sink exactly once if its batch reached exactly N
entries, and otherwise not at all, with no aggregate and INCOMPLETE_BATCH. -/
def Obligations.CyclePublishesExactlyWhenComplete : Prop :=
  ∀ s t : State, exec .runCycle s = .next t → ∃ new : List Event, t.trace = s.trace ++ new ∧
    (t.sampler.batch.length = s.cfg.nSamples →
      (new.filter isPublish).length = 1 ∧ ∃ a, t.output = some ⟨.cycle (some a), .ok⟩) ∧
    (t.sampler.batch.length ≠ s.cfg.nSamples →
      new.filter isPublish = [] ∧ t.output = some ⟨.cycle none, .incompleteBatch⟩)

/-- R112, R113, R114, R161: the frames a cycle writes are the wake command, the mode command, one query per round,
and one sleep command at the end, after an abort as well. -/
def Obligations.CycleWritesWakeModeQueriesSleep : Prop :=
  ∀ s t : State, exec .runCycle s = .next t → ∃ new : List Event, t.trace = s.trace ++ new ∧
    written new =
      [commandFrame s.cfg .sleep s.cfg.plWake, commandFrame s.cfg .modeSet s.cfg.plModeQuery] ++
      List.replicate t.sampler.round (commandFrame s.cfg .queryData s.cfg.plQuery) ++
      [commandFrame s.cfg .sleep s.cfg.plSleep]

/-- R113, R135, R137: a cycle runs the recovery action at most once. If it did, the failed round is the last one, the
batch has one entry fewer than the rounds, and the buffers were reset and the link reopened once; if it did not,
all N rounds ran and nothing was reset. -/
def Obligations.CycleRecoversAtMostOnce : Prop :=
  ∀ s t : State, exec .runCycle s = .next t → ∃ new : List Event, t.trace = s.trace ++ new ∧
    ((t.sampler.recoveryCount = 1 ∧ 1 ≤ t.sampler.round ∧ t.sampler.round ≤ s.cfg.nSamples ∧
        t.sampler.batch.length = t.sampler.round - 1 ∧
        new.filter isBufferReset = [.resetIn, .resetOut, .reopen]) ∨
      (t.sampler.recoveryCount = 0 ∧ t.sampler.round = s.cfg.nSamples ∧
        t.sampler.batch.length = s.cfg.nSamples ∧ new.filter isBufferReset = []))

/-- R141, R113, R119: the waits of a cycle are the settle wait, one inter-sample wait per round, the recovery wait if
a round failed, and one alignment wait, which is positive and at most one period. -/
def Obligations.CycleWaitsInOrder : Prop :=
  ∀ s t : State, exec .runCycle s = .next t → ∃ (new : List Event) (d : Rat), t.trace = s.trace ++ new ∧
    new.filter isWait = [.wait .settle] ++ List.replicate t.sampler.round (.wait .interSample) ++
      List.replicate t.sampler.recoveryCount (.wait .recovery) ++ [.wait (.align d)] ∧
    0 < d ∧ d ≤ s.cfg.period

/-- R11, R115 (U10, D21): with N_SAMPLES = 0, and for an empty list, the Sampler operations are refused by name. That a
PERIOD that is not positive, which R11 only keeps out of the legal values, is refused is the model's reading (log
entry 9, DEDUCED). -/
def Obligations.SamplerRefusesIllegalConfig : Prop :=
  ∀ (s : State) (n : Rat),
    (s.cfg.nSamples = 0 → exec .runCycle s = .refused .noSamples) ∧
    (s.cfg.nSamples ≠ 0 → s.cfg.period ≤ 0 → exec .runCycle s = .refused .periodNotPositive) ∧
    (s.cfg.period ≤ 0 → exec (.nextWakeDelay n) s = .refused .periodNotPositive) ∧
    exec (.median []) s = .refused .emptyMedian

/-! ### MEDIAN and NEXT_WAKE_DELAY -/

/-- R115: MEDIAN of a non-empty list: the values in ascending order, the middle one of an odd number, the exact
average of the two middle ones of an even number; nothing else changes. The empty list is refused. -/
def Obligations.MedianIsTheMiddleOfTheOrderedValues : Prop :=
  ∀ (v : List Word16) (s : State),
    (v = [] → exec (.median v) s = .refused .emptyMedian) ∧
    (v ≠ [] → ∃ (q : Rat) (w : List Nat),
      w.Perm (v.map BitVec.toNat) ∧ w.Pairwise (· ≤ ·) ∧
      exec (.median v) s = .next { s with output := some ⟨.rational q, .ok⟩ } ∧
      (∀ k, v.length = 2 * k + 1 → q = (w.getD k 0 : Rat)) ∧
      (∀ k, v.length = 2 * (k + 1) → q = ((w.getD k 0 : Rat) + (w.getD (k + 1) 0 : Rat)) / 2))

/-- R115: the input order does not matter. -/
def Obligations.MedianIgnoresTheInputOrder : Prop :=
  ∀ (v w : List Word16) (s : State), v.Perm w → exec (.median v) s = exec (.median w) s

/-- R117: a median of 16-bit values, as a concentration, is a whole number of twentieths from 0 to 131070, and
rounding it to two decimals changes nothing. -/
def Obligations.MediansNeedNoRounding : Prop :=
  ∀ v : List Word16, v ≠ [] →
    round2 (medianOf (v.map BitVec.toNat) / 10) = medianOf (v.map BitVec.toNat) / 10 ∧
    ∃ q : Nat, q ≤ 131070 ∧ medianOf (v.map BitVec.toNat) / 10 = (q : Rat) / 20

/-- R119: NEXT_WAKE_DELAY answers the delay d with 0 < d <= PERIOD that makes n + d a multiple of PERIOD, a full
PERIOD where n is one; nothing else changes. -/
def Obligations.NextWakeDelayReachesTheNextMultiple : Prop :=
  ∀ (n : Rat) (s : State), 0 ≤ n → 0 < s.cfg.period → ∃ d : Rat,
    exec (.nextWakeDelay n) s = .next { s with output := some ⟨.rational d, .ok⟩ } ∧
    0 < d ∧ d ≤ s.cfg.period ∧ (∃ k : Int, n + d = k * s.cfg.period) ∧
    ((∃ k : Int, n = k * s.cfg.period) → d = s.cfg.period)

/-! ### Whole-machine rules and frames -/

/-- R103, the table: what each session operation does to `S`. -/
def Obligations.SessionOperationsWriteOnlyTheTable : Prop :=
  ∀ s t : State,
    (∀ active, exec (.setReportMode active) s = .next t →
      (t.output = some ⟨.flag true, .ok⟩ ∧
        t.session = ⟨true, some (if active then .modeActive else .modeQuery), s.session.power⟩) ∨
      (t.output = some ⟨.flag false, .echoInvalid⟩ ∧ t.session = s.session)) ∧
    (∀ sleep, exec (.setSleep sleep) s = .next t →
      (t.output = some ⟨.flag true, .ok⟩ ∧
        t.session = ⟨s.session.configured, s.session.reportMode, some (if sleep then .sleep else .work)⟩) ∨
      (t.output = some ⟨.flag false, .echoInvalid⟩ ∧ t.session = s.session)) ∧
    (∀ i, (i = .query ∨ i = .receiveFrame ∨ (∃ p, i = .setWorkingPeriod p) ∨ i = .readFirmware ∨
        (∃ k a, i = .deviceId k a) ∨ i = .resynchronize) →
      exec i s = .next t → t.session = s.session)

/-- R14, R15, R17 to R19: the report mode and `configured` change only in SET_REPORT_MODE, its frame and RUN_CYCLE;
the power shadow only in SET_SLEEP, its frame and RUN_CYCLE; the sampler's state only in RUN_CYCLE. -/
def Obligations.EachStateHasItsWriters : Prop :=
  ∀ (i : Instr) (s t : State), exec i s = .next t → i ≠ .runCycle →
    t.sampler = s.sampler ∧
    ((∀ b, i ≠ .setReportMode b) → (∀ f, i ≠ .cmdModeSet f) →
      t.session.reportMode = s.session.reportMode ∧ t.session.configured = s.session.configured) ∧
    ((∀ b, i ≠ .setSleep b) → (∀ f, i ≠ .cmdSleep f) → t.session.power = s.session.power)

/-- R11, R40, R39, R31: no operation writes CFG or the requests still to come; the trace only grows, and by accesses
the engine may make. -/
def Obligations.ConfigIsConstantAndTheTraceGrows : Prop :=
  ∀ (i : Instr) (s t : State), exec i s = .next t →
    t.cfg = s.cfg ∧ t.requests = s.requests ∧
    ∃ new : List Event, t.trace = s.trace ++ new ∧ ∀ ev ∈ new, EngineEvent s.cfg ev

/-- R43, R118, R141, R90: only RESYNCHRONIZE and RUN_CYCLE reset or reopen; only RUN_CYCLE waits or publishes. -/
def Obligations.OnlyTheSamplerWaitsAndPublishes : Prop :=
  ∀ (i : Instr) (s t : State), exec i s = .next t → i ≠ .runCycle → ∃ new : List Event,
    t.trace = s.trace ++ new ∧ new.filter isWait = [] ∧ new.filter isPublish = [] ∧
    (i ≠ .resynchronize → new.filter isBufferReset = [])

/-- R75, R115, R119: the codec operations, the response frame rows, MEDIAN and NEXT_WAKE_DELAY show no event and leave
the environment, the session, the sampler and the receive sequencing alone. -/
def Obligations.PureOperationsTouchNothingOutside : Prop :=
  ∀ (i : Instr) (s t : State), exec i s = .next t →
    ((∃ id p, i = .encodeCommand id p) ∨ (∃ b, i = .decodeResponse b) ∨ (∃ f, i = .decodeMeasurement f) ∨
      (∃ f, i = .dataReport f) ∨ (∃ f, i = .commandEcho f) ∨ (∃ v, i = .median v) ∨
      (∃ n, i = .nextWakeDelay n)) →
    t.trace = s.trace ∧ t.env = s.env ∧ t.session = s.session ∧ t.sampler = s.sampler ∧ t.rx = s.rx ∧
    ((∀ id p, i ≠ .encodeCommand id p) → t.txFrame = s.txFrame) ∧
    ((∀ b, i ≠ .decodeResponse b) → (∀ f, i ≠ .dataReport f) → (∀ f, i ≠ .commandEcho f) →
      t.rxFrame = s.rxFrame)

/-- R31, R32, R30: outside RESYNCHRONIZE and a cycle that recovered, which discard bytes, the bytes to leave grow by
exactly the frames written, in order; and the bytes read followed by the stream still to come are the stream before,
each byte read once, with what the line delivers after its listed steps behind it. -/
def Obligations.BytesLeaveAndArriveInOrder : Prop :=
  ∀ (i : Instr) (s t : State), exec i s = .next t → i ≠ .resynchronize →
    (i = .runCycle → t.sampler.recoveryCount = 0) →
    ∃ (new : List Event) (k : Nat), t.trace = s.trace ++ new ∧
      t.env.wire ++ t.env.outBuf = s.env.wire ++ s.env.outBuf ++ (written new).flatten ∧
      bytesRead new ++ stream t.env = stream s.env ++ s.env.lineEnd.bytes k

/-- R24, R46: what an operation shows and answers depends on CFG and the environment alone: not on the frame buffers,
the sequencing state, the sampler, the session, earlier results or the trace. With the same session as well, the
sessions afterwards are the same. -/
def Obligations.OperationsDependOnConfigAndEnvironmentOnly : Prop :=
  ∀ (i : Instr) (s1 s2 : State), SameInputs s1 s2 →
    (∀ t1, exec i s1 = .next t1 → ∃ (t2 : State) (new : List Event), exec i s2 = .next t2 ∧
      t1.output = t2.output ∧ SameInputs t1 t2 ∧ t1.trace = s1.trace ++ new ∧ t2.trace = s2.trace ++ new ∧
      (s1.session = s2.session → t1.session = t2.session)) ∧
    (∀ f, exec i s1 = .fault f → exec i s2 = .fault f) ∧
    (∀ r, exec i s1 = .refused r → exec i s2 = .refused r)

/-! ### Lifecycle -/

/-- R16: an accepted SET_SLEEP before configuration leaves the lifecycle at UNINITIALIZED; a successful
SET_REPORT_MODE lands in CONFIGURED, AWAKE or ASLEEP according to the power state already recorded. -/
def Obligations.LifecycleFollowsTheSetCommands : Prop :=
  ∀ (s t : State) (b : Bool),
    (exec (.setSleep b) s = .next t → lifecycle s.session = .uninitialized →
      lifecycle t.session = .uninitialized) ∧
    (exec (.setSleep b) s = .next t → t.output = some ⟨.flag true, .ok⟩ → s.session.configured = true →
      lifecycle t.session = if b then .asleep else .awake) ∧
    (exec (.setReportMode b) s = .next t → t.output = some ⟨.flag true, .ok⟩ →
      lifecycle t.session = match s.session.power with
        | none => .configured
        | some .work => .awake
        | some .sleep => .asleep)

/-- R16: no step leads back to UNINITIALIZED, nor from AWAKE or ASLEEP to CONFIGURED. -/
def Obligations.LifecycleNeverGoesBack : Prop :=
  ∀ s t : State, step s = .next t →
    (lifecycle s.session ≠ .uninitialized → lifecycle t.session ≠ .uninitialized) ∧
    (lifecycle s.session = .awake ∨ lifecycle s.session = .asleep →
      lifecycle t.session = .awake ∨ lifecycle t.session = .asleep)

/-! ### Reset, the invariant, the step -/

/-- R23, R150, R151: after reset the session is unknown, the sampler empty, both phases IDLE, nothing has been done
and no operation is pending; CFG and the environment are whatever the host and the outside have, and the defaults are
those of R6 and R8 (the payloads are R95's, log entry 19). The values R23 leaves unspecified are not stated. -/
def Obligations.ResetLeavesTheEngineIdle : Prop :=
  ∀ (cfg : Cfg) (env : Env),
    (State.resetIn cfg env).session = ⟨false, none, none⟩ ∧
    lifecycle (State.resetIn cfg env).session = .uninitialized ∧
    (State.resetIn cfg env).sampler = ⟨[], 0, 0, .idle⟩ ∧
    (State.resetIn cfg env).rx.phase = .idle ∧
    (State.resetIn cfg env).cfg = cfg ∧ (State.resetIn cfg env).env = env ∧
    (State.resetIn cfg env).trace = [] ∧
    step (State.resetIn cfg env) = .next (State.resetIn cfg env) ∧
    State.reset.cfg.nSamples = 10 ∧ State.reset.cfg.period = 300 ∧
    State.reset.cfg.dest0 = 0xFF ∧ State.reset.cfg.dest1 = 0xFF ∧ State.reset.cfg.scanMax = none ∧
    State.reset.cfg.echoIdCheck = false ∧ State.reset.cfg.tick = 1 ∧
    State.reset.cfg.plModeActive = [1, 0] ∧ State.reset.cfg.plModeQuery = [1, 1] ∧
    State.reset.cfg.plSleep = [1, 0] ∧ State.reset.cfg.plWake = [1, 1] ∧
    State.reset.cfg.plQuery = [] ∧ State.reset.cfg.plFirmware = [] ∧
    (∀ p : Byte, payloadOf State.reset.cfg.plWorkingPeriod [p] = [1, p]) ∧
    State.reset.cfg.plDeviceId.lengths = [2] ∧
    (∀ a0 a1 : Byte, payloadOf State.reset.cfg.plDeviceId [a0, a1] = List.replicate 10 0 ++ [a0, a1])

/-- The invariant holds at reset, whatever CFG and environment. -/
def Obligations.ResetMeetsTheInvariant : Prop :=
  ConfigLegal State.reset ∧ ∀ (cfg : Cfg) (env : Env), Inv (State.resetIn cfg env)

/-- R12, R13, R18 (idle between operations), R14, R15 (configured exactly when a report mode is known), R17 to R19 and
R113 (rounds, batch and recovery count agree), R31, R32, R39, R142 (only the engine's accesses): every step from every
state that meets the invariant gives a state that meets it. -/
def Obligations.StepKeepsTheInvariant : Prop :=
  ∀ s t : State, Inv s → step s = .next t → Inv t

/-- R67, R68, R154, R162: a step with a request whose word decodes runs that instruction, with the request taken; one
whose word does not decode is refused by name; with no request the engine waits. -/
def Obligations.StepRunsTheDecodedRequest : Prop :=
  ∀ s : State,
    (s.requests = [] → step s = .next s) ∧
    (∀ word rest i, s.requests = word :: rest → decode word = .ok i →
      step s = exec i { s with requests := rest }) ∧
    (∀ word rest why, s.requests = word :: rest → decode word = .error why →
      step s = .refused (.undecodable why)) ∧
    (∀ nbits w i, decodeTableWord nbits w = some i → step (s.withFetchWord nbits w) = exec i s)

/-! ### Encoding -/

/-- Decoding the encoding of a well-formed instruction gives it back, with every operand at every value (how the
operands of host operations are written is the model's choice, log entry 5). -/
def Obligations.DecodeInvertsEncode : Prop :=
  ∀ i : Instr, i.wellFormed = true → decode (encode i) = .ok i

/-- R69: a word the decoder accepts is of the row of the instruction it answers, and no word is of two rows. For the
HOSTOP rows R69 gives a 4-bit code only: that such a row is a whole first byte with its upper four bits zero is the
model's choice (log entry 5). -/
def Obligations.DecodedWordsAreOfOneRow : Prop :=
  (∀ (word : List Byte) (i : Instr), decode word = .ok i → i.row.fits word = true) ∧
  (∀ (word : List Byte) (i j : Instr), i.row.fits word = true → j.row.fits word = true → i.row = j.row)

/-- R63, R68: host codes 0xE and 0xF and command frames with an id outside the closed set are refused. That a host code
is a whole first byte, so that a first byte that is neither below 0x10 nor a header is refused, is the model's choice
(log entry 5). -/
def Obligations.UnassignedEncodingsAreRefused : Prop :=
  ∀ (b : Byte) (rest : List Byte),
    decode (0x0E :: rest) = .error (.unassignedCode 0x0E) ∧
    decode (0x0F :: rest) = .error (.unassignedCode 0x0F) ∧
    (16 ≤ b.toNat → b ≠ 0xAA → decode (b :: rest) = .error (.notARequest b)) ∧
    ((∀ id, b ≠ cmdIdByte id) → ∀ i, decode (0xAA :: 0xB4 :: b :: rest) ≠ .ok i)

/-- R55, R58, R67: words written out from the encoding tables decode to the instructions they stand for (the operand
byte of SET_SLEEP's host word is the model's choice, log entry 5). -/
def Obligations.WrittenOutWordsDecode : Prop :=
  decode [0xAA, 0xB4, 0x06, 0x01, 0x01, 0, 0, 0, 0, 0, 0, 0, 0, 0, 0, 0xFF, 0xFF, 0x06, 0xAB] =
    .ok (.cmdSleep ⟨[0x01, 0x01, 0, 0, 0, 0, 0, 0, 0, 0, 0, 0], 0xFF, 0xFF, 0x06⟩) ∧
  decode [0xAA, 0xC0, 0xD4, 0x04, 0x3A, 0x0A, 0xA1, 0x60, 0x1D, 0xAB] =
    .ok (.dataReport ⟨0xD4, 0x04, 0x3A, 0x0A, 0xA1, 0x60, 0x1D⟩) ∧
  decode [0xAA, 0xC5, 0x07, 0x12, 0x0B, 0x10, 0xA1, 0x60, 0x35, 0xAB] =
    .ok (.commandEcho ⟨0x07, 0x12, 0x0B, 0x10, 0xA1, 0x60, 0x35⟩) ∧
  decode [0x05, 0x01] = .ok (.setSleep true) ∧ decode [0x06] = .ok .query ∧ decode [0x0B] = .ok .runCycle

/-! ### Whatever the line does

What a reception makes of the answers of its reads, in any environment. That `rx_count` holds the number of body bytes
afterwards, 0 where no header was met, is the model's reading (log entry 16, DEDUCED) in each of the four that name it.
-/

/-- R92, R45, R78, R133: whatever the line does, where the reads are answered with noise, a header and a body,
RECEIVE_FRAME gives the frame of the body, or the code of the first failing check; where they meet no header, by an
empty read or noise byte number SCAN_MAX + 1, `None` with NO_HEADER at once. Every effect is named (`rx_count`: log
entry 16). -/
def Obligations.ReceiveFrameFollowsItsAnswers : Prop :=
  (∀ (s : State) (noise body : List Byte) (e : Env), FrameArrives s.cfg s.env noise body e →
    exec .receiveFrame s = .next { s with
      env := e
      trace := s.trace ++ noise.map (fun b => .read 1 [b]) ++ [.read 1 [0xAA], .read 9 body]
      rx := ⟨.idle, noise.length, body.length⟩
      rxFrame := if body.length = 9 then 0xAA :: body else s.rxFrame
      output := some (
        if body.length < 9 then ⟨.received none, .truncated⟩
        else if (body.getD 7 0).toNat ≠
            ((body.getD 1 0).toNat + (body.getD 2 0).toNat + (body.getD 3 0).toNat + (body.getD 4 0).toNat +
              (body.getD 5 0).toNat + (body.getD 6 0).toNat) % 256 then ⟨.received none, .badChecksum⟩
        else if body.getD 8 0 ≠ 0xAB then ⟨.received none, .badTail⟩
        else ⟨.received (some ⟨body.getD 0 0, body.getD 1 0, body.getD 2 0, body.getD 3 0, body.getD 4 0,
          body.getD 5 0, body.getD 6 0, body.getD 7 0, body.getD 8 0⟩), .ok⟩) }) ∧
  (∀ (s : State) (noise : List Byte) (evs : List Event) (e : Env), HeaderMissed s.cfg s.env noise evs e →
    exec .receiveFrame s = .next { s with
      env := e
      trace := s.trace ++ evs
      rx := ⟨.idle, noise.length, 0⟩
      output := some ⟨.received none, .noHeader⟩ })

/-- R97, R98, R96: whatever the line does, where the reads after the write are answered with noise, a header and a
body, SET_REPORT_MODE and SET_SLEEP succeed exactly where the body is a valid echo of theirs, byte by byte; where they
meet no header (R92, R45) the two fail. Every effect is named (`rx_count`: log entry 16). -/
def Obligations.SetCommandsJudgeWhatArrives : Prop :=
  (∀ (s : State) (noise body : List Byte) (e : Env) (b : Bool), ConfigLegal s →
    (∀ p, p = (if b then s.cfg.plModeActive else s.cfg.plModeQuery) →
      FrameArrives s.cfg (s.env.write (commandFrame s.cfg .modeSet p)) noise body e →
      (SealedEcho s.cfg 2 body →
        exec (.setReportMode b) s = .next { roundTripped s .modeSet p noise body e with
          session := ⟨true, some (if b then .modeActive else .modeQuery), s.session.power⟩
          output := some ⟨.flag true, .ok⟩ }) ∧
      (¬ SealedEcho s.cfg 2 body →
        exec (.setReportMode b) s = .next { roundTripped s .modeSet p noise body e with
          output := some ⟨.flag false, .echoInvalid⟩ })) ∧
    (∀ p, p = (if b then s.cfg.plSleep else s.cfg.plWake) →
      FrameArrives s.cfg (s.env.write (commandFrame s.cfg .sleep p)) noise body e →
      (SealedEcho s.cfg 6 body →
        exec (.setSleep b) s = .next { roundTripped s .sleep p noise body e with
          session := ⟨s.session.configured, s.session.reportMode, some (if b then .sleep else .work)⟩
          output := some ⟨.flag true, .ok⟩ }) ∧
      (¬ SealedEcho s.cfg 6 body →
        exec (.setSleep b) s = .next { roundTripped s .sleep p noise body e with
          output := some ⟨.flag false, .echoInvalid⟩ }))) ∧
  (∀ (s : State) (noise : List Byte) (evs : List Event) (e : Env) (b : Bool), ConfigLegal s →
    (∀ p, p = (if b then s.cfg.plModeActive else s.cfg.plModeQuery) →
      HeaderMissed s.cfg (s.env.write (commandFrame s.cfg .modeSet p)) noise evs e →
      exec (.setReportMode b) s = .next { roundTripMissed s .modeSet p noise evs e with
        output := some ⟨.flag false, .echoInvalid⟩ }) ∧
    (∀ p, p = (if b then s.cfg.plSleep else s.cfg.plWake) →
      HeaderMissed s.cfg (s.env.write (commandFrame s.cfg .sleep p)) noise evs e →
      exec (.setSleep b) s = .next { roundTripMissed s .sleep p noise evs e with
        output := some ⟨.flag false, .echoInvalid⟩ }))

/-- R99, R133: whatever the line does, where the reads after the write are answered with noise, a header and a body,
QUERY gives the measurement of a valid data report, or `None` with the code of the first failing check; where they meet
no header (R92, R45), `None` with NO_HEADER. Every effect is named (`rx_count`: log entry 16). -/
def Obligations.QueryJudgesWhatArrives : Prop :=
  (∀ (s : State) (noise body : List Byte) (e : Env), ConfigLegal s →
    FrameArrives s.cfg (s.env.write (commandFrame s.cfg .queryData s.cfg.plQuery)) noise body e →
    ∃ m : Measurement,
      m.pm25Raw.toNat = (body.getD 1 0).toNat + 256 * (body.getD 2 0).toNat ∧
      m.pm10Raw.toNat = (body.getD 3 0).toNat + 256 * (body.getD 4 0).toNat ∧
      exec .query s = .next { roundTripped s .queryData s.cfg.plQuery noise body e with
        output := some (
          if body.length < 9 then ⟨.queried none, .truncated⟩
          else if (body.getD 7 0).toNat ≠
              ((body.getD 1 0).toNat + (body.getD 2 0).toNat + (body.getD 3 0).toNat + (body.getD 4 0).toNat +
                (body.getD 5 0).toNat + (body.getD 6 0).toNat) % 256 then ⟨.queried none, .badChecksum⟩
          else if body.getD 8 0 ≠ 0xAB then ⟨.queried none, .badTail⟩
          else if body.getD 0 0 ≠ 0xC0 then ⟨.queried none, .notDataReport⟩
          else ⟨.queried (some m), .ok⟩) }) ∧
  (∀ (s : State) (noise : List Byte) (evs : List Event) (e : Env), ConfigLegal s →
    HeaderMissed s.cfg (s.env.write (commandFrame s.cfg .queryData s.cfg.plQuery)) noise evs e →
    exec .query s = .next { roundTripMissed s .queryData s.cfg.plQuery noise evs e with
      output := some ⟨.queried none, .noHeader⟩ })

/-- R100, R101, R102, R96: whatever the line does, where the reads after the write are answered with noise, a header
and a body, SET_WORKING_PERIOD, READ_FIRMWARE and DEVICE_ID answer the frame exactly where the body is a valid echo of
theirs, byte by byte, and `None` where it is none or the reads meet no header (R92, R45). Every effect is named
(`rx_count`: log entry 16). -/
def Obligations.RawEchoCommandsJudgeWhatArrives : Prop :=
  ∀ (i : Instr) (id : CmdId) (n : Byte) (p : List Byte) (s : State) (noise : List Byte) (e : Env),
    ConfigLegal s →
    ((∃ b, i = .setWorkingPeriod b ∧ id = .workingPeriod ∧ n = 8 ∧ p = payloadOf s.cfg.plWorkingPeriod [b]) ∨
      (i = .readFirmware ∧ id = .firmware ∧ n = 7 ∧ p = s.cfg.plFirmware) ∨
      (∃ k a, i = .deviceId k a ∧ k ∈ s.cfg.plDeviceId.lengths ∧ id = .deviceId ∧ n = 5 ∧
        p = payloadOf s.cfg.plDeviceId a.toList)) →
    (∀ body, FrameArrives s.cfg (s.env.write (commandFrame s.cfg id p)) noise body e →
      (SealedEcho s.cfg n body →
        exec i s = .next { roundTripped s id p noise body e with
          output := some ⟨.received (some ⟨body.getD 0 0, body.getD 1 0, body.getD 2 0, body.getD 3 0, body.getD 4 0,
            body.getD 5 0, body.getD 6 0, body.getD 7 0, body.getD 8 0⟩), .ok⟩ }) ∧
      (¬ SealedEcho s.cfg n body →
        exec i s = .next { roundTripped s id p noise body e with output := some ⟨.received none, .echoInvalid⟩ })) ∧
    (∀ evs, HeaderMissed s.cfg (s.env.write (commandFrame s.cfg id p)) noise evs e →
      exec i s = .next { roundTripMissed s id p noise evs e with output := some ⟨.received none, .echoInvalid⟩ })

/-- R31 to R35, R40, R46, R118, R141, R142: whatever the operation and the state, a cycle included, the events an
operation shows are what the environment answered, one after another, and the environment afterwards is what they
leave: no read is made up, none is kept out of the trace (the environment's form as data in State: log entries 2
and 21). -/
def Obligations.EventsAreWhatTheEnvironmentAnswered : Prop :=
  ∀ (i : Instr) (s t : State), exec i s = .next t →
    ∃ new : List Event, t.trace = s.trace ++ new ∧ Answered s.env new t.env

/-- R142, R119, R110: a cycle reads the clock twice where its batch is complete, first for the timestamp and then for
the alignment, and once, for the alignment, where it is not; no other operation reads it. No answer is negative, and
the alignment wait reaches the next multiple of PERIOD from the last answer. -/
def Obligations.CycleReadsTheClockAtMostTwice : Prop :=
  (∀ s t : State, exec .runCycle s = .next t → ∃ (new : List Event) (q d : Rat), t.trace = s.trace ++ new ∧
    0 ≤ q ∧ .wait (.align d) ∈ new ∧ 0 < d ∧ d ≤ s.cfg.period ∧ (∃ k : Int, q + d = k * s.cfg.period) ∧
    (t.sampler.batch.length = s.cfg.nSamples → ∃ a : AggregatedSample,
      t.output = some ⟨.cycle (some a), .ok⟩ ∧ 0 ≤ a.timestamp ∧
      new.filter isNow = [.now a.timestamp, .now q]) ∧
    (t.sampler.batch.length ≠ s.cfg.nSamples → new.filter isNow = [.now q])) ∧
  (∀ (i : Instr) (s t : State), exec i s = .next t → i ≠ .runCycle →
    ∃ new : List Event, t.trace = s.trace ++ new ∧ new.filter isNow = [])

/-- R102, R95: what DEVICE_ID takes is what CFG's PL_DEVICE_ID takes. With a legal CFG, an operand that is an argument
of it, of whatever length, runs to a next state wherever the scan after the write ends (R45), never to a refusal; that
any other operand, which has no payload, is refused by name is the model's reading (log entry 9, DEDUCED). -/
def Obligations.DeviceIdTakesTheArgumentsOfItsPayload : Prop :=
  ∀ (n : Nat) (a : Vector Byte n) (s : State),
    (n ∉ s.cfg.plDeviceId.lengths → exec (.deviceId n a) s = .refused .notAnArgument) ∧
    (ConfigLegal s → n ∈ s.cfg.plDeviceId.lengths →
      (∀ r, exec (.deviceId n a) s ≠ .refused r) ∧
      (ScanEnds s.cfg (s.env.write (commandFrame s.cfg .deviceId (payloadOf s.cfg.plDeviceId a.toList))) →
        ∃ (t : State) (new : List Event), exec (.deviceId n a) s = .next t ∧
          t.trace = s.trace ++ .write (commandFrame s.cfg .deviceId (payloadOf s.cfg.plDeviceId a.toList)) :: new ∧
          t.session = s.session ∧ t.cfg = s.cfg))
end

