-- ==== Sys2Proof/Laws/Decode.lean ====
section
/-! SUPPORT. Each operand form read back from its own encoding, with whatever bytes follow it. -/

namespace Sys2Proof

@[simp] theorem Decode.readBool_bool (b : Bool) (rest : List Byte) :
    Decode.readBool (Encode.bool b ++ rest) = .ok (b, rest) := by
  cases b <;> rfl

@[simp] theorem Decode.readCmdId_cmdId (id : CmdId) (rest : List Byte) :
    Decode.readCmdId (Encode.cmdId id ++ rest) = .ok (id, rest) := by
  cases id <;> rfl

/-- A byte list of any length. -/
@[simp] theorem Decode.readBytes_bytes (p rest : List Byte) :
    Decode.readBytes (Encode.bytes p ++ rest) = .ok (p, rest) := by
  induction p with
  | nil => cases rest <;> simp [Encode.bytes, Decode.readBytes]
  | cons b bs ih => simp [Encode.bytes, Decode.readBytes, ih]

/-- A DEVICE_ID argument of any length. -/
theorem Decode.readDeviceId_argument (n : Nat) (a : Vector Byte n) (rest : List Byte) :
    Decode.readDeviceId (Encode.deviceIdArgument a.toList ++ rest) = .ok (.deviceId n a, rest) := by
  have h : Decode.readDeviceId (Encode.deviceIdArgument a.toList ++ rest) = .ok (Decode.deviceIdOf a.toList, rest) := by
    unfold Encode.deviceIdArgument
    split
    · rename_i h; rw [h]; rfl
    · simp [Decode.readDeviceId]
  obtain ⟨⟨l⟩, rfl⟩ := a
  exact h

/-- The two bytes of a 16-bit value are its value (R9). -/
theorem le16_word16 (v : Word16) : Machine.le16 (v.setWidth 8) ((v >>> 8).setWidth 8) = v := by
  apply BitVec.eq_of_toNat_eq
  have := v.isLt
  simp only [Machine.le16, BitVec.toNat_ofNat, BitVec.toNat_setWidth, BitVec.toNat_ushiftRight,
    Nat.shiftRight_eq_div_pow]
  omega

@[simp] theorem Decode.readWords_words (vs : List Word16) (rest : List Byte) :
    Decode.readWords (Encode.words vs ++ rest) = .ok (vs, rest) := by
  induction vs with
  | nil =>
    rcases rest with _ | ⟨a, _ | ⟨b, rest⟩⟩ <;> simp [Encode.words, Decode.readWords]
  | cons v vs ih => simp [Encode.words, Encode.word16, Decode.readWords, ih, le16_word16]

/-- Digits that are bytes stand for the number they are the digits of. -/
theorem Decode.natOfBytes_ofNat (ds : List Nat) (h : ∀ d ∈ ds, d < 256) :
    Decode.natOfBytes (ds.map (BitVec.ofNat 8)) = Nat.ofDigits 256 ds := by
  induction ds with
  | nil => rfl
  | cons d ds ih =>
    have hd := h d (by simp)
    have := ih (fun x hx => h x (by simp [hx]))
    simp only [List.map_cons, Decode.natOfBytes, this, Nat.ofDigits_cons, BitVec.toNat_ofNat]
    omega

theorem Decode.natOfBytes_digits (n : Nat) :
    Decode.natOfBytes ((Nat.digits 256 n).map (BitVec.ofNat 8)) = n := by
  rw [Decode.natOfBytes_ofNat _ (fun d hd => Nat.digits_lt_base (by norm_num) hd), Nat.ofDigits_digits]

/-- A time, its sign aside. -/
theorem Decode.readTime_time (n : Rat) (h : 0 ≤ n.num) (rest : List Byte) :
    Decode.readTime (Encode.time n ++ rest) = .ok (n, rest) := by
  have hd : n.den - 1 + 1 = n.den := Nat.succ_pred_eq_of_pos n.den_pos
  simp only [Decode.readTime, Encode.time, Encode.nat, List.append_assoc, Decode.readBytes_bytes,
    Decode.natOfBytes_digits, hd]
  rw [Int.toNat_of_nonneg h, Rat.mkRat_self]

/-- A word whose decoding consumes everything decodes to what was read. -/
theorem decode_of_readInstr {word : List Byte} {i : Instr} (h : Decode.readInstr word = .ok (i, [])) :
    decode word = .ok i := by
  simp [decode, h]

end Sys2Proof
end

