-- ==== Sys2Proof/Laws/State.lean ====
section
/-! SUPPORT. One lemma per field per update of State, each true by definition, so that no later proof unfolds a
record update. -/

namespace Sys2Proof.Machine

variable (s : State)

/-! ### setEnv -/

@[simp] theorem State.setEnv_cfg (e : Env) : (s.setEnv e).cfg = s.cfg := rfl
@[simp] theorem State.setEnv_txFrame (e : Env) : (s.setEnv e).txFrame = s.txFrame := rfl
@[simp] theorem State.setEnv_rxFrame (e : Env) : (s.setEnv e).rxFrame = s.rxFrame := rfl
@[simp] theorem State.setEnv_rx (e : Env) : (s.setEnv e).rx = s.rx := rfl
@[simp] theorem State.setEnv_session (e : Env) : (s.setEnv e).session = s.session := rfl
@[simp] theorem State.setEnv_sampler (e : Env) : (s.setEnv e).sampler = s.sampler := rfl
@[simp] theorem State.setEnv_env (e : Env) : (s.setEnv e).env = e := rfl
@[simp] theorem State.setEnv_trace (e : Env) : (s.setEnv e).trace = s.trace := rfl
@[simp] theorem State.setEnv_output (e : Env) : (s.setEnv e).output = s.output := rfl
@[simp] theorem State.setEnv_requests (e : Env) : (s.setEnv e).requests = s.requests := rfl

/-! ### record -/

@[simp] theorem State.record_cfg (ev : Event) : (s.record ev).cfg = s.cfg := rfl
@[simp] theorem State.record_txFrame (ev : Event) : (s.record ev).txFrame = s.txFrame := rfl
@[simp] theorem State.record_rxFrame (ev : Event) : (s.record ev).rxFrame = s.rxFrame := rfl
@[simp] theorem State.record_rx (ev : Event) : (s.record ev).rx = s.rx := rfl
@[simp] theorem State.record_session (ev : Event) : (s.record ev).session = s.session := rfl
@[simp] theorem State.record_sampler (ev : Event) : (s.record ev).sampler = s.sampler := rfl
@[simp] theorem State.record_env (ev : Event) : (s.record ev).env = s.env := rfl
@[simp] theorem State.record_trace (ev : Event) : (s.record ev).trace = s.trace ++ [ev] := rfl
@[simp] theorem State.record_output (ev : Event) : (s.record ev).output = s.output := rfl
@[simp] theorem State.record_requests (ev : Event) : (s.record ev).requests = s.requests := rfl

/-! ### setTxFrame -/

@[simp] theorem State.setTxFrame_cfg (t : List Byte) : (s.setTxFrame t).cfg = s.cfg := rfl
@[simp] theorem State.setTxFrame_txFrame (t : List Byte) : (s.setTxFrame t).txFrame = t := rfl
@[simp] theorem State.setTxFrame_rxFrame (t : List Byte) : (s.setTxFrame t).rxFrame = s.rxFrame := rfl
@[simp] theorem State.setTxFrame_rx (t : List Byte) : (s.setTxFrame t).rx = s.rx := rfl
@[simp] theorem State.setTxFrame_session (t : List Byte) : (s.setTxFrame t).session = s.session := rfl
@[simp] theorem State.setTxFrame_sampler (t : List Byte) : (s.setTxFrame t).sampler = s.sampler := rfl
@[simp] theorem State.setTxFrame_env (t : List Byte) : (s.setTxFrame t).env = s.env := rfl
@[simp] theorem State.setTxFrame_trace (t : List Byte) : (s.setTxFrame t).trace = s.trace := rfl
@[simp] theorem State.setTxFrame_output (t : List Byte) : (s.setTxFrame t).output = s.output := rfl
@[simp] theorem State.setTxFrame_requests (t : List Byte) : (s.setTxFrame t).requests = s.requests := rfl

/-! ### setRxFrame -/

@[simp] theorem State.setRxFrame_cfg (f : List Byte) : (s.setRxFrame f).cfg = s.cfg := rfl
@[simp] theorem State.setRxFrame_txFrame (f : List Byte) : (s.setRxFrame f).txFrame = s.txFrame := rfl
@[simp] theorem State.setRxFrame_rxFrame (f : List Byte) : (s.setRxFrame f).rxFrame = f := rfl
@[simp] theorem State.setRxFrame_rx (f : List Byte) : (s.setRxFrame f).rx = s.rx := rfl
@[simp] theorem State.setRxFrame_session (f : List Byte) : (s.setRxFrame f).session = s.session := rfl
@[simp] theorem State.setRxFrame_sampler (f : List Byte) : (s.setRxFrame f).sampler = s.sampler := rfl
@[simp] theorem State.setRxFrame_env (f : List Byte) : (s.setRxFrame f).env = s.env := rfl
@[simp] theorem State.setRxFrame_trace (f : List Byte) : (s.setRxFrame f).trace = s.trace := rfl
@[simp] theorem State.setRxFrame_output (f : List Byte) : (s.setRxFrame f).output = s.output := rfl
@[simp] theorem State.setRxFrame_requests (f : List Byte) : (s.setRxFrame f).requests = s.requests := rfl

/-! ### setRxPhase -/

@[simp] theorem State.setRxPhase_cfg (p : RxPhase) : (s.setRxPhase p).cfg = s.cfg := rfl
@[simp] theorem State.setRxPhase_txFrame (p : RxPhase) : (s.setRxPhase p).txFrame = s.txFrame := rfl
@[simp] theorem State.setRxPhase_rxFrame (p : RxPhase) : (s.setRxPhase p).rxFrame = s.rxFrame := rfl
@[simp] theorem State.setRxPhase_rx (p : RxPhase) : (s.setRxPhase p).rx = { s.rx with phase := p } := rfl
@[simp] theorem State.setRxPhase_session (p : RxPhase) : (s.setRxPhase p).session = s.session := rfl
@[simp] theorem State.setRxPhase_sampler (p : RxPhase) : (s.setRxPhase p).sampler = s.sampler := rfl
@[simp] theorem State.setRxPhase_env (p : RxPhase) : (s.setRxPhase p).env = s.env := rfl
@[simp] theorem State.setRxPhase_trace (p : RxPhase) : (s.setRxPhase p).trace = s.trace := rfl
@[simp] theorem State.setRxPhase_output (p : RxPhase) : (s.setRxPhase p).output = s.output := rfl
@[simp] theorem State.setRxPhase_requests (p : RxPhase) : (s.setRxPhase p).requests = s.requests := rfl

/-! ### setScanCount -/

@[simp] theorem State.setScanCount_cfg (n : Nat) : (s.setScanCount n).cfg = s.cfg := rfl
@[simp] theorem State.setScanCount_txFrame (n : Nat) : (s.setScanCount n).txFrame = s.txFrame := rfl
@[simp] theorem State.setScanCount_rxFrame (n : Nat) : (s.setScanCount n).rxFrame = s.rxFrame := rfl
@[simp] theorem State.setScanCount_rx (n : Nat) : (s.setScanCount n).rx = { s.rx with scanCount := n } := rfl
@[simp] theorem State.setScanCount_session (n : Nat) : (s.setScanCount n).session = s.session := rfl
@[simp] theorem State.setScanCount_sampler (n : Nat) : (s.setScanCount n).sampler = s.sampler := rfl
@[simp] theorem State.setScanCount_env (n : Nat) : (s.setScanCount n).env = s.env := rfl
@[simp] theorem State.setScanCount_trace (n : Nat) : (s.setScanCount n).trace = s.trace := rfl
@[simp] theorem State.setScanCount_output (n : Nat) : (s.setScanCount n).output = s.output := rfl
@[simp] theorem State.setScanCount_requests (n : Nat) : (s.setScanCount n).requests = s.requests := rfl

/-! ### setRxCount -/

@[simp] theorem State.setRxCount_cfg (n : Nat) : (s.setRxCount n).cfg = s.cfg := rfl
@[simp] theorem State.setRxCount_txFrame (n : Nat) : (s.setRxCount n).txFrame = s.txFrame := rfl
@[simp] theorem State.setRxCount_rxFrame (n : Nat) : (s.setRxCount n).rxFrame = s.rxFrame := rfl
@[simp] theorem State.setRxCount_rx (n : Nat) : (s.setRxCount n).rx = { s.rx with rxCount := n } := rfl
@[simp] theorem State.setRxCount_session (n : Nat) : (s.setRxCount n).session = s.session := rfl
@[simp] theorem State.setRxCount_sampler (n : Nat) : (s.setRxCount n).sampler = s.sampler := rfl
@[simp] theorem State.setRxCount_env (n : Nat) : (s.setRxCount n).env = s.env := rfl
@[simp] theorem State.setRxCount_trace (n : Nat) : (s.setRxCount n).trace = s.trace := rfl
@[simp] theorem State.setRxCount_output (n : Nat) : (s.setRxCount n).output = s.output := rfl
@[simp] theorem State.setRxCount_requests (n : Nat) : (s.setRxCount n).requests = s.requests := rfl

/-! ### setReportMode -/

@[simp] theorem State.setReportMode_cfg (m : ReportMode) : (s.setReportMode m).cfg = s.cfg := rfl
@[simp] theorem State.setReportMode_txFrame (m : ReportMode) : (s.setReportMode m).txFrame = s.txFrame := rfl
@[simp] theorem State.setReportMode_rxFrame (m : ReportMode) : (s.setReportMode m).rxFrame = s.rxFrame := rfl
@[simp] theorem State.setReportMode_rx (m : ReportMode) : (s.setReportMode m).rx = s.rx := rfl
@[simp] theorem State.setReportMode_session (m : ReportMode) : (s.setReportMode m).session = ⟨true, some m, s.session.power⟩ := rfl
@[simp] theorem State.setReportMode_sampler (m : ReportMode) : (s.setReportMode m).sampler = s.sampler := rfl
@[simp] theorem State.setReportMode_env (m : ReportMode) : (s.setReportMode m).env = s.env := rfl
@[simp] theorem State.setReportMode_trace (m : ReportMode) : (s.setReportMode m).trace = s.trace := rfl
@[simp] theorem State.setReportMode_output (m : ReportMode) : (s.setReportMode m).output = s.output := rfl
@[simp] theorem State.setReportMode_requests (m : ReportMode) : (s.setReportMode m).requests = s.requests := rfl

/-! ### setPower -/

@[simp] theorem State.setPower_cfg (p : PowerState) : (s.setPower p).cfg = s.cfg := rfl
@[simp] theorem State.setPower_txFrame (p : PowerState) : (s.setPower p).txFrame = s.txFrame := rfl
@[simp] theorem State.setPower_rxFrame (p : PowerState) : (s.setPower p).rxFrame = s.rxFrame := rfl
@[simp] theorem State.setPower_rx (p : PowerState) : (s.setPower p).rx = s.rx := rfl
@[simp] theorem State.setPower_session (p : PowerState) : (s.setPower p).session = ⟨s.session.configured, s.session.reportMode, some p⟩ := rfl
@[simp] theorem State.setPower_sampler (p : PowerState) : (s.setPower p).sampler = s.sampler := rfl
@[simp] theorem State.setPower_env (p : PowerState) : (s.setPower p).env = s.env := rfl
@[simp] theorem State.setPower_trace (p : PowerState) : (s.setPower p).trace = s.trace := rfl
@[simp] theorem State.setPower_output (p : PowerState) : (s.setPower p).output = s.output := rfl
@[simp] theorem State.setPower_requests (p : PowerState) : (s.setPower p).requests = s.requests := rfl

/-! ### setBatch -/

@[simp] theorem State.setBatch_cfg (b : List Measurement) : (s.setBatch b).cfg = s.cfg := rfl
@[simp] theorem State.setBatch_txFrame (b : List Measurement) : (s.setBatch b).txFrame = s.txFrame := rfl
@[simp] theorem State.setBatch_rxFrame (b : List Measurement) : (s.setBatch b).rxFrame = s.rxFrame := rfl
@[simp] theorem State.setBatch_rx (b : List Measurement) : (s.setBatch b).rx = s.rx := rfl
@[simp] theorem State.setBatch_session (b : List Measurement) : (s.setBatch b).session = s.session := rfl
@[simp] theorem State.setBatch_sampler (b : List Measurement) : (s.setBatch b).sampler = { s.sampler with batch := b } := rfl
@[simp] theorem State.setBatch_env (b : List Measurement) : (s.setBatch b).env = s.env := rfl
@[simp] theorem State.setBatch_trace (b : List Measurement) : (s.setBatch b).trace = s.trace := rfl
@[simp] theorem State.setBatch_output (b : List Measurement) : (s.setBatch b).output = s.output := rfl
@[simp] theorem State.setBatch_requests (b : List Measurement) : (s.setBatch b).requests = s.requests := rfl

/-! ### setRound -/

@[simp] theorem State.setRound_cfg (k : Nat) : (s.setRound k).cfg = s.cfg := rfl
@[simp] theorem State.setRound_txFrame (k : Nat) : (s.setRound k).txFrame = s.txFrame := rfl
@[simp] theorem State.setRound_rxFrame (k : Nat) : (s.setRound k).rxFrame = s.rxFrame := rfl
@[simp] theorem State.setRound_rx (k : Nat) : (s.setRound k).rx = s.rx := rfl
@[simp] theorem State.setRound_session (k : Nat) : (s.setRound k).session = s.session := rfl
@[simp] theorem State.setRound_sampler (k : Nat) : (s.setRound k).sampler = { s.sampler with round := k } := rfl
@[simp] theorem State.setRound_env (k : Nat) : (s.setRound k).env = s.env := rfl
@[simp] theorem State.setRound_trace (k : Nat) : (s.setRound k).trace = s.trace := rfl
@[simp] theorem State.setRound_output (k : Nat) : (s.setRound k).output = s.output := rfl
@[simp] theorem State.setRound_requests (k : Nat) : (s.setRound k).requests = s.requests := rfl

/-! ### setRecoveryCount -/

@[simp] theorem State.setRecoveryCount_cfg (c : Nat) : (s.setRecoveryCount c).cfg = s.cfg := rfl
@[simp] theorem State.setRecoveryCount_txFrame (c : Nat) : (s.setRecoveryCount c).txFrame = s.txFrame := rfl
@[simp] theorem State.setRecoveryCount_rxFrame (c : Nat) : (s.setRecoveryCount c).rxFrame = s.rxFrame := rfl
@[simp] theorem State.setRecoveryCount_rx (c : Nat) : (s.setRecoveryCount c).rx = s.rx := rfl
@[simp] theorem State.setRecoveryCount_session (c : Nat) : (s.setRecoveryCount c).session = s.session := rfl
@[simp] theorem State.setRecoveryCount_sampler (c : Nat) : (s.setRecoveryCount c).sampler = { s.sampler with recoveryCount := c } := rfl
@[simp] theorem State.setRecoveryCount_env (c : Nat) : (s.setRecoveryCount c).env = s.env := rfl
@[simp] theorem State.setRecoveryCount_trace (c : Nat) : (s.setRecoveryCount c).trace = s.trace := rfl
@[simp] theorem State.setRecoveryCount_output (c : Nat) : (s.setRecoveryCount c).output = s.output := rfl
@[simp] theorem State.setRecoveryCount_requests (c : Nat) : (s.setRecoveryCount c).requests = s.requests := rfl

/-! ### setPhase -/

@[simp] theorem State.setPhase_cfg (p : SamplerPhase) : (s.setPhase p).cfg = s.cfg := rfl
@[simp] theorem State.setPhase_txFrame (p : SamplerPhase) : (s.setPhase p).txFrame = s.txFrame := rfl
@[simp] theorem State.setPhase_rxFrame (p : SamplerPhase) : (s.setPhase p).rxFrame = s.rxFrame := rfl
@[simp] theorem State.setPhase_rx (p : SamplerPhase) : (s.setPhase p).rx = s.rx := rfl
@[simp] theorem State.setPhase_session (p : SamplerPhase) : (s.setPhase p).session = s.session := rfl
@[simp] theorem State.setPhase_sampler (p : SamplerPhase) : (s.setPhase p).sampler = { s.sampler with phase := p } := rfl
@[simp] theorem State.setPhase_env (p : SamplerPhase) : (s.setPhase p).env = s.env := rfl
@[simp] theorem State.setPhase_trace (p : SamplerPhase) : (s.setPhase p).trace = s.trace := rfl
@[simp] theorem State.setPhase_output (p : SamplerPhase) : (s.setPhase p).output = s.output := rfl
@[simp] theorem State.setPhase_requests (p : SamplerPhase) : (s.setPhase p).requests = s.requests := rfl

/-! ### setRequests -/

@[simp] theorem State.setRequests_cfg (r : List (List Byte)) : (s.setRequests r).cfg = s.cfg := rfl
@[simp] theorem State.setRequests_txFrame (r : List (List Byte)) : (s.setRequests r).txFrame = s.txFrame := rfl
@[simp] theorem State.setRequests_rxFrame (r : List (List Byte)) : (s.setRequests r).rxFrame = s.rxFrame := rfl
@[simp] theorem State.setRequests_rx (r : List (List Byte)) : (s.setRequests r).rx = s.rx := rfl
@[simp] theorem State.setRequests_session (r : List (List Byte)) : (s.setRequests r).session = s.session := rfl
@[simp] theorem State.setRequests_sampler (r : List (List Byte)) : (s.setRequests r).sampler = s.sampler := rfl
@[simp] theorem State.setRequests_env (r : List (List Byte)) : (s.setRequests r).env = s.env := rfl
@[simp] theorem State.setRequests_trace (r : List (List Byte)) : (s.setRequests r).trace = s.trace := rfl
@[simp] theorem State.setRequests_output (r : List (List Byte)) : (s.setRequests r).output = s.output := rfl
@[simp] theorem State.setRequests_requests (r : List (List Byte)) : (s.setRequests r).requests = r := rfl

/-! ### setOutput -/

@[simp] theorem State.setOutput_cfg (v : Value) (c : FailCode) : (s.setOutput v c).cfg = s.cfg := rfl
@[simp] theorem State.setOutput_txFrame (v : Value) (c : FailCode) : (s.setOutput v c).txFrame = s.txFrame := rfl
@[simp] theorem State.setOutput_rxFrame (v : Value) (c : FailCode) : (s.setOutput v c).rxFrame = s.rxFrame := rfl
@[simp] theorem State.setOutput_rx (v : Value) (c : FailCode) : (s.setOutput v c).rx = s.rx := rfl
@[simp] theorem State.setOutput_session (v : Value) (c : FailCode) : (s.setOutput v c).session = s.session := rfl
@[simp] theorem State.setOutput_sampler (v : Value) (c : FailCode) : (s.setOutput v c).sampler = s.sampler := rfl
@[simp] theorem State.setOutput_env (v : Value) (c : FailCode) : (s.setOutput v c).env = s.env := rfl
@[simp] theorem State.setOutput_trace (v : Value) (c : FailCode) : (s.setOutput v c).trace = s.trace := rfl
@[simp] theorem State.setOutput_output (v : Value) (c : FailCode) : (s.setOutput v c).output = some ⟨v, c⟩ := rfl
@[simp] theorem State.setOutput_requests (v : Value) (c : FailCode) : (s.setOutput v c).requests = s.requests := rfl

end Sys2Proof.Machine
end

