-- ==== Sys2Proof/Laws/Env.lean ====
section
/-! SUPPORT. What the environment's operations do: lengths of answers, first in first out in both directions, and what
a read does when its bytes are already at hand. -/

namespace Sys2Proof.Machine

/-! ### advance -/

theorem Env.advance_of_line_nil (e : Env) (h : e.line = []) : e.advance = e := by
  simp [Env.advance, h]

@[simp] theorem Env.advance_lineEnd (e : Env) : e.advance.lineEnd = e.lineEnd := by
  unfold Env.advance; split <;> rfl

@[simp] theorem Env.advance_clock (e : Env) : e.advance.clock = e.clock := by
  unfold Env.advance; split <;> rfl

@[simp] theorem Env.advance_clockEnd (e : Env) : e.advance.clockEnd = e.clockEnd := by
  unfold Env.advance; split <;> rfl

theorem Env.advance_line (e : Env) : e.advance.line = e.line.tail := by
  unfold Env.advance; split <;> simp [*]

theorem Env.advance_inBuf (e : Env) :
    e.advance.inBuf = e.inBuf ++ (e.line.head?.map LineStep.arrived).getD [] := by
  unfold Env.advance; split <;> simp [*]

/-- What has left and what is still to leave, in order: an advance moves bytes and loses none (R31). -/
@[simp] theorem Env.advance_outgoing (e : Env) :
    e.advance.wire ++ e.advance.outBuf = e.wire ++ e.outBuf := by
  unfold Env.advance
  split
  · rfl
  · simp [List.append_assoc]

@[simp] theorem Env.advance_stream (e : Env) : stream e.advance = stream e := by
  unfold Env.advance
  split
  · rfl
  · simp [stream, *]

/-- The pending bytes are neither lost nor made by an advance. -/
@[simp] theorem Env.advance_pending (e : Env) : e.advance.pending = e.pending := by
  unfold Env.advance
  split
  · rfl
  · simp [Env.pending, *]; omega

/-! ### fill -/

theorem Env.fill_of_quiet (e : Env) (n : Nat) (h : e.lineEnd = .quiet) : e.fill n = e := by
  unfold Env.fill
  rw [h]
  split <;> simp_all

theorem Env.fill_of_enough (e : Env) (n : Nat) (h : n ≤ e.inBuf.length) : e.fill n = e := by
  unfold Env.fill
  split
  · simp [Nat.sub_eq_zero_of_le h]
  · rfl

theorem Env.fill_of_line_cons (e : Env) (n : Nat) (h : e.line ≠ []) : e.fill n = e := by
  unfold Env.fill
  split <;> simp_all

@[simp] theorem Env.fill_lineEnd (e : Env) (n : Nat) : (e.fill n).lineEnd = e.lineEnd := by
  unfold Env.fill; split <;> rfl

@[simp] theorem Env.fill_line (e : Env) (n : Nat) : (e.fill n).line = e.line := by
  unfold Env.fill; split <;> rfl

@[simp] theorem Env.fill_wire (e : Env) (n : Nat) : (e.fill n).wire = e.wire := by
  unfold Env.fill; split <;> rfl

@[simp] theorem Env.fill_outBuf (e : Env) (n : Nat) : (e.fill n).outBuf = e.outBuf := by
  unfold Env.fill; split <;> rfl

@[simp] theorem Env.fill_clock (e : Env) (n : Nat) : (e.fill n).clock = e.clock := by
  unfold Env.fill; split <;> rfl

@[simp] theorem Env.fill_clockEnd (e : Env) (n : Nat) : (e.fill n).clockEnd = e.clockEnd := by
  unfold Env.fill; split <;> rfl

/-! ### read -/

theorem Env.readLimit_le (e : Env) (n : Nat) : e.readLimit n ≤ n := by
  unfold Env.readLimit
  split
  · exact Nat.le_refl n
  · split <;> omega

/-- A read is answered with at most the bytes asked for (R32). -/
theorem Env.read_length_le (e : Env) (n : Nat) : (e.read n).1.length ≤ n := by
  have := e.readLimit_le n
  simp only [Env.read, List.length_take]
  omega

@[simp] theorem Env.read_lineEnd (e : Env) (n : Nat) : (e.read n).2.lineEnd = e.lineEnd := by
  simp [Env.read]

@[simp] theorem Env.read_clock (e : Env) (n : Nat) : (e.read n).2.clock = e.clock := by
  simp [Env.read]

@[simp] theorem Env.read_clockEnd (e : Env) (n : Nat) : (e.read n).2.clockEnd = e.clockEnd := by
  simp [Env.read]

/-- A read sends nothing and loses nothing of the outgoing bytes. -/
@[simp] theorem Env.read_outgoing (e : Env) (n : Nat) :
    (e.read n).2.wire ++ (e.read n).2.outBuf = e.wire ++ e.outBuf := by
  simp [Env.read]

@[simp] theorem LineEnd.bytes_zero (l : LineEnd) : l.bytes 0 = [] := by cases l <;> rfl

@[simp] theorem LineEnd.bytes_quiet (k : Nat) : LineEnd.quiet.bytes k = [] := rfl

theorem LineEnd.bytes_add (l : LineEnd) (j k : Nat) : l.bytes (j + k) = l.bytes j ++ l.bytes k := by
  cases l with
  | quiet => rfl
  | noise b => exact List.replicate_add j k b

/-- A fill puts bytes of the line's end behind the receive stream. -/
theorem Env.fill_stream (e : Env) (n : Nat) : ∃ k, stream (e.fill n) = stream e ++ e.lineEnd.bytes k := by
  unfold Env.fill
  split
  · rename_i b hl he
    exact ⟨n - e.inBuf.length, by simp [stream, hl, he, LineEnd.bytes]⟩
  · exact ⟨0, by simp⟩

/-- A read takes its answer off the front of the receive stream and leaves the rest; behind the stream stand the bytes
the line delivers after its listed steps (R32). -/
theorem Env.read_stream (e : Env) (n : Nat) :
    ∃ k, (e.read n).1 ++ stream (e.read n).2 = stream e ++ e.lineEnd.bytes k := by
  obtain ⟨k, hk⟩ := e.fill_stream n
  refine ⟨k, ?_⟩
  rw [← hk, ← (e.fill n).advance_stream]
  simp only [Env.read, stream]
  rw [← List.append_assoc, List.take_append_drop]

/-- With its bytes at hand and no step of the line scheduled, a read returns exactly them. -/
theorem Env.read_of_enough (e : Env) (n : Nat) (hl : e.line = []) (hn : n ≤ e.inBuf.length) :
    e.read n = (e.inBuf.take n, { e with inBuf := e.inBuf.drop n }) := by
  simp [Env.read, Env.readLimit, e.fill_of_enough n hn, e.advance_of_line_nil hl, hl]

/-- On a quiet line with nothing at hand and nothing scheduled, a read comes back empty (R32). -/
theorem Env.read_of_nothing (e : Env) (n : Nat) (hl : e.line = []) (hq : e.lineEnd = .quiet) (hb : e.inBuf = []) :
    e.read n = ([], e) := by
  rw [Env.read, e.fill_of_quiet n hq, e.advance_of_line_nil hl]
  simp only [hb, List.take_nil, List.drop_nil]
  rw [← hb]

/-- With nothing at hand and nothing scheduled, a line that is noise for ever answers a 1-byte read with its byte and
stays as it is. -/
theorem Env.read_one_noise (e : Env) (b : Byte) (hl : e.line = []) (hb : e.inBuf = []) (he : e.lineEnd = .noise b) :
    e.read 1 = ([b], e) := by
  obtain ⟨_, _, _, _, _, _, _, _⟩ := e
  simp only at hl hb he
  subst hl hb he
  simp [Env.read, Env.readLimit, Env.fill, Env.advance]

/-- A byte read is one pending byte fewer, but for the byte a noisy line makes up once nothing is at hand and nothing
scheduled. -/
theorem Env.read_one_pending (e : Env) (b : Byte) (bs : List Byte) (h : (e.read 1).1 = b :: bs) :
    (e.read 1).2.pending + 1 ≤ e.pending ∨ (e.line = [] ∧ e.inBuf = [] ∧ e.lineEnd = .noise b) := by
  by_cases hf : e.fill 1 = e
  · left
    have hl : (e.read 1).1.length = 1 := by
      have := e.read_length_le 1
      rw [h] at this ⊢
      simp at this ⊢
      omega
    have hp := e.advance_pending
    simp only [Env.read, hf] at hl ⊢
    simp only [List.length_take] at hl
    simp only [Env.pending, List.length_drop] at hp ⊢
    have := e.readLimit_le 1
    omega
  · right
    have hb : e.inBuf = [] := by
      by_contra hb
      exact hf (e.fill_of_enough 1 (List.length_pos_of_ne_nil hb))
    have hl : e.line = [] := by
      by_contra hl
      exact hf (e.fill_of_line_cons 1 hl)
    cases he : e.lineEnd with
    | quiet => exact absurd (e.fill_of_quiet 1 he) hf
    | noise c =>
      rw [e.read_one_noise c hl hb he] at h
      simp only [List.cons.injEq] at h
      exact ⟨hl, hb, by rw [h.1]⟩

/-! ### Successive reads -/

/-- A line that is noise for ever, with nothing at hand and nothing scheduled, never changes by 1-byte reads. -/
theorem afterReads_noise (e : Env) (b : Byte) (k : Nat) (hl : e.line = []) (hb : e.inBuf = [])
    (he : e.lineEnd = .noise b) : afterReads e (List.replicate k 1) = e := by
  induction k with
  | zero => rfl
  | succ k ih =>
    rw [List.replicate_succ, afterReads, e.read_one_noise b hl hb he]
    exact ih

/-- One read more does not change whether a scan of unbounded length ends. -/
theorem ScanEnds.next {cfg : Cfg} {e : Env} (hm : cfg.scanMax = none) (h : ScanEnds cfg e)
    (h0 : (e.read 1).1 ≠ []) (h1 : (e.read 1).1 ≠ [header]) : ScanEnds cfg (e.read 1).2 := by
  rcases h with h | ⟨k, h⟩
  · simp [hm] at h
  · cases k with
    | zero =>
      rcases h with h | h
      · exact absurd h h0
      · exact absurd h h1
    | succ k => exact .inr ⟨k, by simpa [List.replicate_succ, afterReads] using h⟩

theorem ScanEnds.of_next {cfg : Cfg} {e : Env} (h : ScanEnds cfg (e.read 1).2) : ScanEnds cfg e := by
  rcases h with h | ⟨k, h⟩
  · exact .inl h
  · exact .inr ⟨k + 1, by simpa [List.replicate_succ, afterReads] using h⟩

/-- On a line that is not noise for ever every scan ends. -/
theorem scanEnds_of_settled (cfg : Cfg) (n : Nat) : ∀ e : Env,
    e.lineEnd = .quiet ∨ e.lineEnd = .noise header → e.pending ≤ n → ScanEnds cfg e := by
  induction n with
  | zero =>
    intro e hl hp
    cases h : (e.read 1).1 with
    | nil => exact .inr ⟨0, .inl h⟩
    | cons b bs =>
      rcases e.read_one_pending b bs h with hq | ⟨h1, h2, h3⟩
      · omega
      · rcases hl with hl | hl
        · simp [hl] at h3
        · exact .inr ⟨0, .inr (by simp [afterReads, e.read_one_noise header h1 h2 hl])⟩
  | succ n ih =>
    intro e hl hp
    cases h : (e.read 1).1 with
    | nil => exact .inr ⟨0, .inl h⟩
    | cons b bs =>
      rcases e.read_one_pending b bs h with hq | ⟨h1, h2, h3⟩
      · exact (ih (e.read 1).2 (by simpa using hl) (by omega)).of_next
      · rcases hl with hl | hl
        · simp [hl] at h3
        · exact .inr ⟨0, .inr (by simp [afterReads, e.read_one_noise header h1 h2 hl])⟩

theorem LineSettles.scanEnds {s : State} (h : LineSettles s) (e : Env) (he : e.lineEnd = s.env.lineEnd) :
    ScanEnds s.cfg e := by
  rcases h with h | h
  · exact .inl h
  · exact scanEnds_of_settled s.cfg e.pending e (by rw [he]; exact h) (Nat.le_refl _)

/-! ### write, resets, reopen, clock -/

@[simp] theorem Env.write_lineEnd (e : Env) (v : List Byte) : (e.write v).lineEnd = e.lineEnd := by simp [Env.write]
@[simp] theorem Env.write_clock (e : Env) (v : List Byte) : (e.write v).clock = e.clock := by simp [Env.write]
@[simp] theorem Env.write_clockEnd (e : Env) (v : List Byte) : (e.write v).clockEnd = e.clockEnd := by
  simp [Env.write]

/-- A write puts its bytes behind every earlier byte still to leave (R31). -/
@[simp] theorem Env.write_outgoing (e : Env) (v : List Byte) :
    (e.write v).wire ++ (e.write v).outBuf = e.wire ++ e.outBuf ++ v := by
  have h := e.advance_outgoing
  simp only [Env.write]
  rw [← List.append_assoc, h]

@[simp] theorem Env.write_stream (e : Env) (v : List Byte) : stream (e.write v) = stream e := by
  have h := e.advance_stream
  simpa [Env.write, stream] using h

@[simp] theorem Env.resetIn_lineEnd (e : Env) : e.resetIn.lineEnd = e.lineEnd := by simp [Env.resetIn]
@[simp] theorem Env.resetOut_lineEnd (e : Env) : e.resetOut.lineEnd = e.lineEnd := by simp [Env.resetOut]
@[simp] theorem Env.reopen_lineEnd (e : Env) : e.reopen.lineEnd = e.lineEnd := by
  simp only [Env.reopen]; split <;> simp
@[simp] theorem Env.clockRead_lineEnd (e : Env) : e.clockRead.lineEnd = e.lineEnd := by simp [Env.clockRead]

@[simp] theorem Env.resetIn_clock (e : Env) : e.resetIn.clock = e.clock := by simp [Env.resetIn]
@[simp] theorem Env.resetOut_clock (e : Env) : e.resetOut.clock = e.clock := by simp [Env.resetOut]
@[simp] theorem Env.reopen_clock (e : Env) : e.reopen.clock = e.clock := by
  simp only [Env.reopen]; split <;> simp
@[simp] theorem Env.resetIn_clockEnd (e : Env) : e.resetIn.clockEnd = e.clockEnd := by simp [Env.resetIn]
@[simp] theorem Env.resetOut_clockEnd (e : Env) : e.resetOut.clockEnd = e.clockEnd := by simp [Env.resetOut]
@[simp] theorem Env.reopen_clockEnd (e : Env) : e.reopen.clockEnd = e.clockEnd := by
  simp only [Env.reopen]; split <;> simp
@[simp] theorem Env.clockRead_clock (e : Env) : e.clockRead.clock = e.clock.tail := by simp [Env.clockRead]
@[simp] theorem Env.clockRead_clockEnd (e : Env) : e.clockRead.clockEnd = e.clockEnd := by simp [Env.clockRead]

/-- The clock never answers a negative time (R142). -/
theorem Env.clockAnswer_nonneg (e : Env) : 0 ≤ e.clockAnswer := (e.clock.headD e.clockEnd).property

@[simp] theorem Env.clockRead_outgoing (e : Env) :
    e.clockRead.wire ++ e.clockRead.outBuf = e.wire ++ e.outBuf := e.advance_outgoing
@[simp] theorem Env.clockRead_stream (e : Env) : stream e.clockRead = stream e := e.advance_stream

/-! ### Whole traces -/

/-- One trace after another. -/
theorem answered_append (a b : List Event) (e g : Env) :
    Answered e (a ++ b) g ↔ ∃ f, Answered e a f ∧ Answered f b g := by
  induction a generalizing e with
  | nil => simp [Answered]
  | cons x xs ih => cases x <;> simp [Answered, ih, and_assoc]

theorem Answered.trans {a b : List Event} {e f g : Env} (h : Answered e a f) (k : Answered f b g) :
    Answered e (a ++ b) g :=
  (answered_append a b e g).mpr ⟨f, h, k⟩

/-- No access changes how the line ends, or what the clock answers at last. -/
theorem Answered.ends {evs : List Event} {e e' : Env} (h : Answered e evs e') :
    e'.lineEnd = e.lineEnd ∧ e'.clockEnd = e.clockEnd := by
  induction evs generalizing e with
  | nil => rw [Answered] at h; simp [h]
  | cons x xs ih =>
    cases x with
    | read n a => simpa using ih h.2
    | write v => simpa using ih h
    | resetIn => simpa using ih h
    | resetOut => simpa using ih h
    | reopen => simpa using ih h
    | wait l => simpa using ih h
    | now q => simpa using ih h.2
    | publish x y => simpa using ih h

/-- Only a clock read uses up an answer of the clock. -/
theorem Answered.clock {evs : List Event} {e e' : Env} (h : Answered e evs e') (hn : ∀ q, .now q ∉ evs) :
    e'.clock = e.clock := by
  induction evs generalizing e with
  | nil => rw [Answered] at h; simp [h]
  | cons x xs ih =>
    have hx : ∀ q, .now q ∉ xs := fun q hq => hn q (by simp [hq])
    cases x with
    | read n a => simpa using ih h.2 hx
    | write v => simpa using ih h hx
    | resetIn => simpa using ih h hx
    | resetOut => simpa using ih h hx
    | reopen => simpa using ih h hx
    | wait l => simpa using ih h hx
    | now q => exact absurd (by simp) (hn q)
    | publish x y => simpa using ih h hx

/-- Unless the buffers are reset, the bytes still to leave grow by the frames written, in order (R31). -/
theorem Answered.outgoing {evs : List Event} {e e' : Env} (h : Answered e evs e')
    (hr : evs.filter isBufferReset = []) :
    e'.wire ++ e'.outBuf = e.wire ++ e.outBuf ++ (written evs).flatten := by
  induction evs generalizing e with
  | nil => rw [Answered] at h; simp [h, written]
  | cons x xs ih =>
    cases x with
    | read n a => simpa [written] using ih h.2 (by simpa [isBufferReset] using hr)
    | write v => simpa [written] using ih h (by simpa [isBufferReset] using hr)
    | resetIn => simp [isBufferReset] at hr
    | resetOut => simp [isBufferReset] at hr
    | reopen => simp [isBufferReset] at hr
    | wait l => simpa [written] using ih h (by simpa [isBufferReset] using hr)
    | now q =>
      have := ih h.2 (by simpa [isBufferReset] using hr)
      rwa [Env.clockRead_outgoing] at this
    | publish x y => simpa [written] using ih h (by simpa [isBufferReset] using hr)

/-- Unless the buffers are reset, the bytes read and the stream still to come are the stream before, and behind it
what the line delivers after its listed steps (R32). -/
theorem Answered.incoming {evs : List Event} {e e' : Env} (h : Answered e evs e')
    (hr : evs.filter isBufferReset = []) :
    ∃ k, bytesRead evs ++ stream e' = stream e ++ e.lineEnd.bytes k := by
  induction evs generalizing e with
  | nil => rw [Answered] at h; exact ⟨0, by simp [h, bytesRead]⟩
  | cons x xs ih =>
    cases x with
    | read n a =>
      obtain ⟨j, hj⟩ := e.read_stream n
      obtain ⟨k, hk⟩ := ih h.2 (by simpa [isBufferReset] using hr)
      refine ⟨j + k, ?_⟩
      rw [bytesRead, h.1, List.append_assoc, hk, ← List.append_assoc, hj, LineEnd.bytes_add]
      simp
    | write v => simpa [bytesRead] using ih h (by simpa [isBufferReset] using hr)
    | resetIn => simp [isBufferReset] at hr
    | resetOut => simp [isBufferReset] at hr
    | reopen => simp [isBufferReset] at hr
    | wait l => simpa [bytesRead] using ih h (by simpa [isBufferReset] using hr)
    | now q => simpa [bytesRead] using ih h.2 (by simpa [isBufferReset] using hr)
    | publish x y => simpa [bytesRead] using ih h (by simpa [isBufferReset] using hr)

/-! ### Scans whose answers are known -/

/-- A 1-byte read answered with nothing or a header behind other 1-byte reads: the scan ends there. -/
theorem Answered.scanEnds {cfg : Cfg} {noise a : List Byte} {rest : List Event} {e e' : Env}
    (h : Answered e (noise.map (fun b => .read 1 [b]) ++ .read 1 a :: rest) e') (ha : a = [] ∨ a = [header]) :
    ScanEnds cfg e := by
  induction noise generalizing e with
  | nil => exact .inr ⟨0, by rcases ha with ha | ha <;> simp [afterReads, ← h.1, ha]⟩
  | cons x xs ih => exact (ih h.2).of_next

theorem FrameArrives.scanEnds {cfg : Cfg} {e e' : Env} {noise body : List Byte}
    (h : FrameArrives cfg e noise body e') : ScanEnds cfg e :=
  h.1.scanEnds (.inr rfl)

theorem HeaderMissed.scanEnds {cfg : Cfg} {e e' : Env} {noise : List Byte} {evs : List Event}
    (h : HeaderMissed cfg e noise evs e') : ScanEnds cfg e := by
  obtain ⟨ha, ⟨rfl, _⟩ | ⟨_, _, m, hm, _⟩⟩ := h
  · exact ha.scanEnds (.inl rfl)
  · exact .inl (by simp [hm])

/-- Noise at hand, with nothing scheduled, is read byte by byte. -/
theorem answered_waiting (noise rest : List Byte) (e : Env) (hl : e.line = []) (hb : e.inBuf = noise ++ rest) :
    Answered e (noise.map (fun b => .read 1 [b])) { e with inBuf := rest } := by
  induction noise generalizing e with
  | nil => simp only [List.nil_append] at hb; simp [Answered, ← hb]
  | cons x xs ih =>
    have h1 := e.read_of_enough 1 hl (by rw [hb]; simp)
    simp only [hb, List.cons_append, List.take_succ_cons, List.take_zero, List.drop_succ_cons, List.drop_zero] at h1
    simp only [List.map_cons, Answered, h1, true_and]
    exact ih { e with inBuf := xs ++ rest } hl rfl

/-- A waiting frame is a frame that arrives. -/
theorem FrameWaits.arrives {s : State} {noise body rest : List Byte} (h : FrameWaits s noise body rest) :
    FrameArrives s.cfg s.env noise body { s.env with inBuf := rest } := by
  obtain ⟨hl, hb, hn, h9⟩ := h
  refine ⟨(answered_waiting noise _ s.env hl hb).trans ?_, hn⟩
  have h1 := ({ s.env with inBuf := header :: (body ++ rest) } : Env).read_of_enough 1 hl (by simp)
  have h2 := ({ s.env with inBuf := body ++ rest } : Env).read_of_enough 9 hl (by simp; omega)
  have ht : List.take 9 (body ++ rest) = body := by rw [← h9, List.take_left]
  have hd : List.drop 9 (body ++ rest) = rest := by rw [← h9, List.drop_left]
  simp only [List.take_succ_cons, List.take_zero, List.drop_succ_cons, List.drop_zero] at h1
  simp only [ht, hd] at h2
  simp [Answered, h1, h2]

end Sys2Proof.Machine
end

