-- ==== Sys2Proof/Laws/Ops.lean ====
section
/-! SUPPORT. One lemma per shared operation that says everything it can do; provers cite these and do not unfold the
operations. A state after an operation is written as the state before it with the changed fields named. -/

namespace Sys2Proof.Machine

/-! ### Sequencing -/

/-- A procedure that went on and returned did both parts. -/
theorem Run.andThen_done {α β : Type} {r : Run α} {k : α → State → Run β} {b : β} {t : State}
    (h : r.andThen k = .done b t) : ∃ a u, r = .done a u ∧ k a u = .done b t := by
  cases r with
  | done a u => exact ⟨a, u, rfl, h⟩
  | fault f => simp [Run.andThen] at h
  | refused x => simp [Run.andThen] at h

@[simp] theorem Run.andThen_done_eq {α β : Type} (a : α) (s : State) (k : α → State → Run β) :
    (Run.done a s).andThen k = k a s := rfl

/-- An operation's next state is its procedure's, with the output set. -/
theorem Run.returns_next {α : Type} {r : Run α} {out : α → Value × FailCode} {t : State}
    (h : r.returns out = .next t) : ∃ a u, r = .done a u ∧ t = u.setOutput (out a).1 (out a).2 := by
  cases r with
  | done a u =>
    simp only [Run.returns, State.returns, Host.Outcome.next.injEq] at h
    exact ⟨a, u, rfl, h.symm⟩
  | fault f => simp [Run.returns] at h
  | refused x => simp [Run.returns] at h

@[simp] theorem Run.returns_done {α : Type} (a : α) (s : State) (out : α → Value × FailCode) :
    (Run.done a s).returns out = .next (s.setOutput (out a).1 (out a).2) := rfl

/-! ### Primitives -/

theorem memWrite_eq (v : List Byte) (s : State) :
    memWrite v s = { s with env := s.env.write v, trace := s.trace ++ [.write v] } := rfl

theorem memRead_eq (n : Nat) (s : State) :
    memRead n s =
      { s with env := (s.env.read n).2, trace := s.trace ++ [.read n (s.env.read n).1] } := rfl

theorem wait_eq (l : WaitLabel) (s : State) :
    wait l s = { s with env := s.env.advance, trace := s.trace ++ [.wait l] } := rfl

theorem now_eq (s : State) :
    now s = { s with env := s.env.clockRead, trace := s.trace ++ [.now s.env.clockAnswer] } := rfl

theorem publish_eq (a b : Rat) (s : State) :
    publish a b s = { s with env := s.env.advance, trace := s.trace ++ [.publish a b] } := rfl

/-- RESYNCHRONIZE: three events in this order, and only the environment changes with them (R104). -/
theorem resynchronize_eq (s : State) :
    resynchronize s =
      { s with
        env := s.env.resetIn.resetOut.reopen
        trace := s.trace ++ [.resetIn, .resetOut, .reopen] } := by
  simp [resynchronize, resetIn, resetOut, reopen, State.setEnv, State.record]

/-- The recovery action (R113): the wait, the resynchronise, the counter. -/
theorem recoveryAction_eq (s : State) :
    recoveryAction s =
      { s with
        env := s.env.advance.resetIn.resetOut.reopen
        trace := s.trace ++ [.wait .recovery, .resetIn, .resetOut, .reopen]
        sampler := { s.sampler with phase := .recover, recoveryCount := s.sampler.recoveryCount + 1 } } := by
  simp [recoveryAction, resynchronize_eq, wait_eq, State.setPhase, State.setRecoveryCount]

/-! ### The header scan -/

@[simp] theorem scanEvents_nil : scanEvents [] = [] := rfl

@[simp] theorem scanEvents_cons (b : Byte) (bs : List Byte) :
    scanEvents (b :: bs) = .read 1 [b] :: scanEvents bs := rfl

/-- A scan that found a header: it read noise one byte at a time, then the header, as the environment answered, and
changed nothing but the environment, the trace and `scan_count`. -/
theorem scan_header {fuel : Nat} {s t : State} (h : scan fuel s = .header t) :
    ∃ noise, (∀ b ∈ noise, b ≠ header) ∧
      (noise ≠ [] → ∀ m, s.cfg.scanMax = some m → s.rx.scanCount + noise.length ≤ m) ∧
      t = { s with
            env := t.env
            trace := s.trace ++ scanEvents noise ++ [.read 1 [header]]
            rx := { s.rx with scanCount := s.rx.scanCount + noise.length } } ∧
      Answered s.env (scanEvents noise ++ [.read 1 [header]]) t.env := by
  induction fuel generalizing s with
  | zero => simp [scan] at h
  | succ fuel ih =>
    have hlen := s.env.read_length_le 1
    unfold scan at h
    split at h
    · simp at h
    · rename_i b bs hb
      simp only [memReadAnswer] at hb
      rw [hb] at hlen
      have hbs : bs = [] := by simpa using hlen
      subst hbs
      split at h
      · rename_i hhead
        simp only [ScanEnd.header.injEq] at h
        subst h
        refine ⟨[], by simp, by simp, ?_, ?_⟩
        · simp [memRead_eq, hb, hhead]
        · simp [memRead_eq, Answered, hb, hhead]
      · rename_i hhead
        simp only at h
        split at h
        · simp at h
        · rename_i hmax
          obtain ⟨noise, h1, h2, h3, h4⟩ := ih h
          simp only [memRead_eq, State.setScanCount] at h2 h3 h4
          refine ⟨b :: noise, ?_, ?_, ?_, hb.symm, h4⟩
          · intro x hx
            rcases List.mem_cons.mp hx with rfl | hx
            · exact hhead
            · exact h1 x hx
          · intro _ m hm
            by_cases hne : noise = []
            · subst hne
              simp only [overScanMax, hm, decide_eq_true_eq, not_lt] at hmax
              simpa using hmax
            · have := h2 hne m hm
              simp only [List.length_cons]
              omega
          · rw [h3]
            simp [hb]
            omega

/-- A scan that found no header: it read noise one byte at a time, as the environment answered, and ended on an empty
read, or on the noise byte that exceeds SCAN_MAX. -/
theorem scan_noHeader {fuel : Nat} {s t : State} (h : scan fuel s = .noHeader t) :
    ∃ noise evs, (∀ b ∈ noise, b ≠ header) ∧
      (((noise ≠ [] → ∀ m, s.cfg.scanMax = some m → s.rx.scanCount + noise.length ≤ m) ∧
          evs = scanEvents noise ++ [.read 1 []]) ∨
        ((∃ m, s.cfg.scanMax = some m ∧ (s.rx.scanCount ≤ m → s.rx.scanCount + noise.length = m + 1)) ∧
          evs = scanEvents noise)) ∧
      t = { s with
            env := t.env
            trace := s.trace ++ evs
            rx := { s.rx with scanCount := s.rx.scanCount + noise.length } } ∧
      Answered s.env evs t.env := by
  induction fuel generalizing s with
  | zero => simp [scan] at h
  | succ fuel ih =>
    have hlen := s.env.read_length_le 1
    unfold scan at h
    split at h
    · rename_i hb
      simp only [memReadAnswer] at hb
      simp only [ScanEnd.noHeader.injEq] at h
      subst h
      refine ⟨[], _, by simp, .inl ⟨by simp, rfl⟩, ?_, ?_⟩
      · simp [memRead_eq, hb]
      · simp [memRead_eq, Answered, hb]
    · rename_i b bs hb
      simp only [memReadAnswer] at hb
      rw [hb] at hlen
      have hbs : bs = [] := by simpa using hlen
      subst hbs
      split at h
      · simp at h
      · rename_i hhead
        simp only at h
        split at h
        · rename_i hmax
          simp only [ScanEnd.noHeader.injEq] at h
          subst h
          refine ⟨[b], _, by simpa using hhead, .inr ⟨?_, rfl⟩, ?_, ?_⟩
          · cases hsm : s.cfg.scanMax with
            | none => simp [overScanMax, hsm] at hmax
            | some m =>
              simp only [overScanMax, hsm, decide_eq_true_eq] at hmax
              refine ⟨m, rfl, ?_⟩
              intro hle
              simp only [List.length_singleton]
              omega
          · simp [memRead_eq, State.setScanCount, hb]
          · simp [memRead_eq, State.setScanCount, Answered, hb]
        · rename_i hmax
          obtain ⟨noise, evs, h1, h2, h3, h4⟩ := ih h
          simp only [memRead_eq, State.setScanCount] at h2 h3 h4
          refine ⟨b :: noise, .read 1 [b] :: evs, ?_, ?_, ?_, hb.symm, h4⟩
          · intro x hx
            rcases List.mem_cons.mp hx with rfl | hx
            · exact hhead
            · exact h1 x hx
          · rcases h2 with ⟨h2, rfl⟩ | ⟨⟨m, hm, hex⟩, rfl⟩
            · left
              refine ⟨?_, rfl⟩
              intro _ m hm
              by_cases hne : noise = []
              · subst hne
                simp only [overScanMax, hm, decide_eq_true_eq, not_lt] at hmax
                simpa using hmax
              · have := h2 hne m hm
                simp only [List.length_cons]
                omega
            · right
              refine ⟨⟨m, hm, ?_⟩, rfl⟩
              intro _
              simp only [overScanMax, hm, decide_eq_true_eq, not_lt] at hmax
              have := hex hmax
              simp only [List.length_cons]
              omega
          · rw [h3]
            simp [hb]
            omega

/-- Fuel enough for the bound SCAN_MAX: the scan ends. -/
theorem scan_ends_bound (m fuel : Nat) (s : State) (hm : s.cfg.scanMax = some m)
    (hf : m + 1 ≤ s.rx.scanCount + fuel) (h1 : 1 ≤ fuel) : scan fuel s ≠ .endless := by
  induction fuel generalizing s with
  | zero => omega
  | succ fuel ih =>
    unfold scan
    split
    · simp
    · split
      · simp
      · simp only
        split
        · simp
        · rename_i hmax
          simp only [overScanMax, hm, decide_eq_true_eq, not_lt] at hmax
          refine ih _ (by simpa [memRead_eq, State.setScanCount] using hm) ?_ (by omega)
          simp only [memRead_eq, State.setScanCount]
          omega

/-- With no bound SCAN_MAX the fuel of `scanFuel` is enough for every scan that ends (R45). -/
theorem scan_ends (fuel : Nat) (s : State) (hm : s.cfg.scanMax = none) (h : ScanEnds s.cfg s.env)
    (hf : s.env.pending + 1 ≤ fuel) : scan fuel s ≠ .endless := by
  induction fuel generalizing s with
  | zero => omega
  | succ fuel ih =>
    unfold scan
    split
    · simp
    · rename_i b bs hb
      simp only [memReadAnswer] at hb
      split
      · simp
      · rename_i hhead
        simp only
        split
        · simp
        · rcases s.env.read_one_pending b bs hb with hp | ⟨h1, h2, h3⟩
          · refine ih _ (by simpa [memRead_eq, State.setScanCount] using hm) ?_ ?_
            · simpa [memRead_eq, State.setScanCount] using
                h.next hm (by rw [hb]; simp) (by rw [hb]; simp [hhead])
            · simp only [memRead_eq, State.setScanCount]
              omega
          · rcases h with h | ⟨k, h⟩
            · simp [hm] at h
            · rw [afterReads_noise s.env b k h1 h2 h3, s.env.read_one_noise b h1 h2 h3] at h
              simp [hhead] at h

/-- A scan that does not end uses up any fuel. -/
theorem scan_endless (fuel : Nat) (s : State) (h : ¬ ScanEnds s.cfg s.env) : scan fuel s = .endless := by
  induction fuel generalizing s with
  | zero => rfl
  | succ fuel ih =>
    have hm : s.cfg.scanMax = none := by
      cases hsm : s.cfg.scanMax with
      | none => rfl
      | some m => exact absurd (.inl (by rw [hsm]; rfl)) h
    have hlen := s.env.read_length_le 1
    unfold scan
    split
    · rename_i hb
      exact absurd (.inr ⟨0, .inl hb⟩) h
    · rename_i b bs hb
      simp only [memReadAnswer] at hb
      split
      · rename_i hhead
        have hbs : bs = [] := by rw [hb] at hlen; simpa using hlen
        exact absurd (.inr ⟨0, .inr (by rw [← hhead, ← hbs]; exact hb)⟩) h
      · rw [if_neg (by simp [hm, overScanMax])]
        refine ih _ (fun hn => h ?_)
        exact ScanEnds.of_next (by simpa [memRead_eq, State.setScanCount] using hn)

/-- The noise in front of a scan that ends, within SCAN_MAX, is read byte by byte, whatever the line does (R93). -/
theorem scan_noise (noise : List Byte) (fuel : Nat) (s : State) (e : Env) (hne : scan fuel s ≠ .endless)
    (ha : Answered s.env (scanEvents noise) e) (hn : ∀ b ∈ noise, b ≠ header)
    (hm : ∀ m, s.cfg.scanMax = some m → s.rx.scanCount + noise.length ≤ m) :
    ∃ fuel', scan fuel s = scan fuel'
      { s with
        env := e
        trace := s.trace ++ scanEvents noise
        rx := { s.rx with scanCount := s.rx.scanCount + noise.length } } := by
  induction noise generalizing fuel s with
  | nil => exact ⟨fuel, by rw [scanEvents_nil, Answered] at ha; simp [ha]⟩
  | cons b bs ih =>
    cases fuel with
    | zero => exact absurd rfl hne
    | succ fuel =>
      have hbh : b ≠ header := hn b (by simp)
      have hover : overScanMax s.cfg.scanMax (s.rx.scanCount + 1) = false := by
        cases hsm : s.cfg.scanMax with
        | none => rfl
        | some m =>
          have := hm m hsm
          simp only [List.length_cons] at this
          simp only [overScanMax, decide_eq_false_iff_not, not_lt]
          omega
      have hstep : scan (fuel + 1) s = scan fuel ((memRead 1 s).setScanCount (s.rx.scanCount + 1)) := by
        conv => lhs; unfold scan
        simp [memReadAnswer, ← ha.1, hbh, hover]
      rw [hstep] at hne ⊢
      obtain ⟨k, hk⟩ := ih fuel _ hne ha.2
        (fun x hx => hn x (by simp [hx]))
        (by
          intro m hsm
          have := hm m (by simpa [memRead_eq, State.setScanCount] using hsm)
          simp only [memRead_eq, State.setScanCount, List.length_cons] at this ⊢
          omega)
      refine ⟨k, hk.trans (congrArg (scan k) ?_)⟩
      simp [memRead_eq, State.setScanCount, ← ha.1]
      omega

/-- A scan that ends and whose next read is answered with this byte list: what it comes to (R92). -/
theorem scan_next (fuel : Nat) (s : State) (a : List Byte) (hne : scan fuel s ≠ .endless) (ha : (s.env.read 1).1 = a) :
    (a = [] → scan fuel s = .noHeader (memRead 1 s)) ∧ (a = [header] → scan fuel s = .header (memRead 1 s)) ∧
      (∀ b, a = [b] → b ≠ header → overScanMax s.cfg.scanMax (s.rx.scanCount + 1) = true →
        scan fuel s = .noHeader ((memRead 1 s).setScanCount (s.rx.scanCount + 1))) := by
  cases fuel with
  | zero => exact absurd rfl hne
  | succ fuel =>
    refine ⟨?_, ?_, ?_⟩
    · rintro rfl; simp [scan, memReadAnswer, ha]
    · rintro rfl; simp [scan, memReadAnswer, ha]
    · rintro b rfl hb ho; simp [scan, memReadAnswer, ha, hb, ho]

/-! ### Traces of reads -/

theorem written_append (a b : List Event) : written (a ++ b) = written a ++ written b := by
  induction a with
  | nil => rfl
  | cons e es ih => cases e <;> simp [written, ih]

theorem rxFrameAfter_append (old : List Byte) (a b : List Event) :
    rxFrameAfter old (a ++ b) = rxFrameAfter (rxFrameAfter old a) b := by
  induction a generalizing old with
  | nil => rfl
  | cons e es ih => cases e <;> simp [rxFrameAfter, ih]

theorem rxFrameAfter_scanEvents (old noise : List Byte) : rxFrameAfter old (scanEvents noise) = old := by
  induction noise with
  | nil => rfl
  | cons b bs ih => simpa [rxFrameAfter] using ih

theorem noiseReads_scanEvents (noise : List Byte) (h : ∀ b ∈ noise, b ≠ header) :
    (scanEvents noise).filter isNoiseRead = scanEvents noise := by
  induction noise with
  | nil => rfl
  | cons b bs ih =>
    rw [scanEvents_cons, List.filter_cons, if_pos (by simp [isNoiseRead, h b (by simp)]),
      ih (fun x hx => h x (by simp [hx]))]

@[simp] theorem scanEvents_length (noise : List Byte) : (scanEvents noise).length = noise.length := by
  simp [scanEvents]

/-! ### RECEIVE_FRAME -/

/-- DECODE_RESPONSE's write of `rx_frame` for a body of at most nine bytes (R78). -/
theorem loadBody_eq (body : List Byte) (s : State) (h : body.length ≤ 9) :
    loadBody body s = { s with rxFrame := if body.length = 9 then header :: body else s.rxFrame } := by
  unfold loadBody
  by_cases h9 : body.length = 9
  · rw [if_neg (by omega), if_pos h9, List.take_of_length_le h]; rfl
  · rw [if_pos (by omega), if_neg h9]

/-- The body read (R92). -/
theorem readBody_eq (s : State) :
    readBody s =
      { s with
        env := (s.env.read 9).2
        trace := s.trace ++ [.read 9 (s.env.read 9).1]
        rx := { s.rx with phase := .idle, rxCount := (s.env.read 9).1.length } } := by
  simp [readBody, memRead_eq, memReadAnswer, State.setRxPhase, State.setRxCount]

/-- A reception reads, and does nothing else: it writes nothing, resets nothing, waits for nothing, reads no clock and
publishes nothing. -/
theorem Reception.silent {cfg : Cfg} {evs : List Event} {r : Except FailCode ResponseFrame}
    (h : Reception cfg evs r) :
    written evs = [] ∧ evs.filter isBufferReset = [] ∧ evs.filter isWait = [] ∧ evs.filter isPublish = [] ∧
      ∀ q, .now q ∉ evs := by
  have hs : ∀ noise : List Byte, written (scanEvents noise) = [] ∧ (scanEvents noise).filter isBufferReset = [] ∧
      (scanEvents noise).filter isWait = [] ∧ (scanEvents noise).filter isPublish = [] ∧
      ∀ q, .now q ∉ scanEvents noise := by
    intro noise
    induction noise with
    | nil => simp [written]
    | cons b bs ih => simpa [scanEvents, isPublish, written, isWait, isBufferReset] using ih
  cases h with
  | empty noise _ => simp [written_append, hs noise, written, isPublish, isWait, isBufferReset]
  | bound noise _ _ _ => exact hs noise
  | framed noise _ _ => simp [written_append, hs noise, written, isPublish, isWait, isBufferReset]

/-- What `Receives` says of the two byte streams and the clock follows from the environment's answers. -/
theorem Reception.receives {evs : List Event} {r : Except FailCode ResponseFrame} {s t : State}
    (h : Reception s.cfg evs r) (trace : t.trace = s.trace ++ evs) (rxFrame : t.rxFrame = rxFrameAfter s.rxFrame evs)
    (rxPhase : t.rx.phase = .idle) (scanCount : t.rx.scanCount = (evs.filter isNoiseRead).length)
    (rxCount : t.rx.rxCount ≤ 9) (cfg : t.cfg = s.cfg) (txFrame : t.txFrame = s.txFrame)
    (sampler : t.sampler = s.sampler) (requests : t.requests = s.requests) (answered : Answered s.env evs t.env) :
    Receives evs s t := by
  obtain ⟨hw, hb, _, _, hn⟩ := h.silent
  refine ⟨trace, rxFrame, rxPhase, scanCount, rxCount, cfg, txFrame, sampler, requests, answered, ?_,
    answered.incoming hb, answered.ends.1, answered.clock hn, answered.ends.2⟩
  simpa [hw] using answered.outgoing hb

/-- What RECEIVE_FRAME does when it returns: one reception, and nothing else of the machine but the environment, the
receive sequencing state and `rx_frame` (R92). -/
theorem receive_shows {s t : State} {r : Except FailCode ResponseFrame} (h : receive s = .done r t) :
    ∃ evs, Reception s.cfg evs r ∧ Receives evs s t ∧ t.session = s.session ∧ t.output = s.output := by
  have within : ∀ {noise : List Byte} {c : Nat}, c = 0 →
      (noise ≠ [] → ∀ m, s.cfg.scanMax = some m → c + noise.length ≤ m) →
      ∀ m, s.cfg.scanMax = some m → noise.length ≤ m := by
    intro noise c hc h m hm
    by_cases hne : noise = []
    · simp [hne]
    · simpa [hc] using h hne m hm
  unfold receive at h
  split at h
  · simp at h
  · rename_i u hs
    simp only [Run.done.injEq] at h
    obtain ⟨rfl, rfl⟩ := h
    obtain ⟨noise, evs, h1, h2, h3, h4⟩ := scan_noHeader hs
    simp only [beginScan, State.setRxPhase, State.setScanCount, State.setRxCount] at h2 h3 h4
    simp only [State.setRxPhase]
    rcases h2 with ⟨h2, rfl⟩ | ⟨⟨m, hm, hex⟩, rfl⟩
    · have hr : Reception s.cfg (scanEvents noise ++ [.read 1 []]) (.error .noHeader) := .empty noise ⟨h1, within rfl h2⟩
      refine ⟨_, hr, hr.receives ?_ ?_ rfl ?_ ?_ ?_ ?_ ?_ ?_ h4, ?_, ?_⟩ <;> rw [h3]
      · simp [rxFrameAfter_append, rxFrameAfter_scanEvents, rxFrameAfter]
      · simp [noiseReads_scanEvents noise h1, isNoiseRead]
      · exact Nat.zero_le 9
    · have hr : Reception s.cfg (scanEvents noise) (.error .noHeader) :=
        .bound noise m hm h1 (by simpa using hex (Nat.zero_le m))
      refine ⟨_, hr, hr.receives ?_ ?_ rfl ?_ ?_ ?_ ?_ ?_ ?_ h4, ?_, ?_⟩ <;> rw [h3]
      · simp [rxFrameAfter_scanEvents]
      · simp [noiseReads_scanEvents noise h1]
      · exact Nat.zero_le 9
  · rename_i u hs
    simp only [Run.done.injEq] at h
    obtain ⟨rfl, rfl⟩ := h
    obtain ⟨noise, h1, h2, h3, h4⟩ := scan_header hs
    simp only [beginScan, State.setRxPhase, State.setScanCount, State.setRxCount] at h2 h3 h4
    have hlen := u.env.read_length_le 9
    rw [memReadAnswer, loadBody_eq _ _ hlen, readBody_eq]
    have hr : Reception s.cfg (scanEvents noise ++ [.read 1 [header], .read 9 (u.env.read 9).1])
        (checkBody (u.env.read 9).1) := .framed noise _ ⟨h1, within rfl h2⟩ hlen
    refine ⟨_, hr, hr.receives ?_ ?_ rfl ?_ hlen ?_ ?_ ?_ ?_ ?_, ?_, ?_⟩
    · rw [h3]; simp
    · rw [h3]; simp [rxFrameAfter_append, rxFrameAfter_scanEvents, rxFrameAfter]
    · rw [h3]; simp [noiseReads_scanEvents noise h1, isNoiseRead]
    · rw [h3]
    · rw [h3]
    · rw [h3]
    · rw [h3]
    · rw [List.append_cons]
      exact h4.trans ⟨rfl, rfl⟩
    · rw [h3]
    · rw [h3]

/-- The scan RECEIVE_FRAME makes has fuel enough, wherever it ends (R45). -/
theorem receive_scans (s : State) (h : ScanEnds s.cfg s.env) : scan (scanFuel s) (beginScan s) ≠ .endless := by
  cases hm : s.cfg.scanMax with
  | some m =>
    refine scan_ends_bound m _ _ ?_ ?_ ?_
    · simpa [beginScan] using hm
    · simp [scanFuel, hm, beginScan]
    · simp [scanFuel, hm]
  | none =>
    refine scan_ends _ _ ?_ ?_ ?_
    · simpa [beginScan] using hm
    · simpa [beginScan] using h
    · simp [scanFuel, hm, beginScan]

/-- RECEIVE_FRAME returns wherever its scan ends (R45). -/
theorem receive_returns (s : State) (h : ScanEnds s.cfg s.env) : ∃ r t, receive s = .done r t := by
  have hne := receive_scans s h
  unfold receive
  split
  · rename_i he; exact absurd he hne
  · exact ⟨_, _, rfl⟩
  · exact ⟨_, _, rfl⟩

/-- RECEIVE_FRAME never returns where its scan does not end (R45, U17). -/
theorem receive_endless (s : State) (h : ¬ ScanEnds s.cfg s.env) : receive s = .fault .scanNeverEnds := by
  rw [receive, scan_endless _ (beginScan s) (by simpa [beginScan] using h)]

/-- The noise in front of RECEIVE_FRAME's scan is read byte by byte, whatever the line does. -/
theorem receive_noise (s : State) (noise : List Byte) (e : Env) (he : ScanEnds s.cfg s.env)
    (ha : Answered s.env (scanEvents noise) e) (hn : ∀ b ∈ noise, b ≠ header)
    (hm : ∀ m, s.cfg.scanMax = some m → noise.length ≤ m) :
    ∃ fuel, scan (scanFuel s) (beginScan s) = scan fuel
      { s with env := e, trace := s.trace ++ scanEvents noise, rx := ⟨.scan, noise.length, 0⟩ } := by
  obtain ⟨k, hk⟩ := scan_noise noise _ (beginScan s) e (receive_scans s he) (by simpa [beginScan] using ha) hn
    (fun m hsm => by simpa [beginScan] using hm m (by simpa [beginScan] using hsm))
  exact ⟨k, by rw [hk]; simp [beginScan, State.setRxPhase, State.setScanCount, State.setRxCount]⟩

/-- RECEIVE_FRAME of a frame that arrives behind noise, whatever the line does, every effect (R92). -/
theorem receive_arrives (s : State) (noise body : List Byte) (e : Env) (h : FrameArrives s.cfg s.env noise body e) :
    receive s = .done (checkBody body)
      { s with
        env := e
        trace := s.trace ++ scanEvents noise ++ [.read 1 [header], .read 9 body]
        rx := ⟨.idle, noise.length, body.length⟩
        rxFrame := if body.length = 9 then header :: body else s.rxFrame } := by
  have he := h.scanEnds
  have hne := receive_scans s he
  obtain ⟨ha, hn, hm⟩ := h
  obtain ⟨f, hf, h1, rfl, rfl⟩ := (answered_append _ _ _ _).mp ha
  obtain ⟨k, hk⟩ := receive_noise s noise f he hf hn hm
  rw [hk] at hne
  rw [receive, hk, (scan_next k _ _ hne h1.symm).2.1 rfl]
  simp only [memReadAnswer, readBody_eq, loadBody_eq _ _ ((f.read 1).2.read_length_le 9), memRead_eq]
  simp [← h1]

/-- RECEIVE_FRAME that meets no header, whatever the line does, every effect (R92, R45). -/
theorem receive_missed (s : State) (noise : List Byte) (evs : List Event) (e : Env)
    (h : HeaderMissed s.cfg s.env noise evs e) :
    receive s = .done (.error .noHeader)
      { s with env := e, trace := s.trace ++ evs, rx := ⟨.idle, noise.length, 0⟩ } := by
  have he := h.scanEnds
  have hne := receive_scans s he
  obtain ⟨ha, ⟨rfl, hn, hm⟩ | ⟨rfl, hn, m, hm, hl⟩⟩ := h
  · obtain ⟨f, hf, h1, rfl⟩ := (answered_append _ _ _ _).mp ha
    obtain ⟨k, hk⟩ := receive_noise s noise f he hf hn hm
    rw [hk] at hne
    rw [receive, hk, (scan_next k _ _ hne h1.symm).1 rfl]
    simp [memRead_eq, ← h1, State.setRxPhase, scanEvents]
  · obtain ⟨xs, b, rfl⟩ := (List.eq_nil_or_concat noise).resolve_left (by rintro rfl; simp at hl)
    simp only [List.concat_eq_append] at ha hn hl ⊢
    simp only [List.length_append, List.length_singleton, Nat.add_right_cancel_iff] at hl
    rw [List.map_append] at ha
    obtain ⟨f, hf, h1, rfl⟩ := (answered_append _ _ _ _).mp ha
    obtain ⟨k, hk⟩ := receive_noise s xs f he hf (fun x hx => hn x (by simp [hx]))
      (fun m' hm' => by rw [hm] at hm'; cases hm'; omega)
    rw [hk] at hne
    rw [receive, hk, (scan_next k _ _ hne h1.symm).2.2 b rfl (hn b (by simp)) (by simp [overScanMax, hm, hl])]
    simp [memRead_eq, ← h1, State.setRxPhase, State.setScanCount, scanEvents]

/-- RECEIVE_FRAME of a whole frame that waits behind noise, every effect (R92). -/
theorem receive_waits (s : State) (noise body rest : List Byte) (h : FrameWaits s noise body rest) :
    receive s = .done (checkBody body)
      { s with
        env := { s.env with inBuf := rest }
        trace := s.trace ++ scanEvents noise ++ [.read 1 [header], .read 9 body]
        rx := ⟨.idle, noise.length, 9⟩
        rxFrame := header :: body } := by
  have h9 := h.2.2.2
  rw [receive_arrives s noise body _ h.arrives]
  simp [h9]

/-! ### The codec -/

/-- ENCODE_COMMAND's frame exists exactly for a payload of at most 12 bytes (R77). -/
theorem encodeFrame_ok (cfg : Cfg) (id : CmdId) (p : List Byte) (h : p.length ≤ payloadMax) :
    encodeFrame cfg id p = .ok (commandFrame cfg id p) := by
  simp [encodeFrame, commandFrame, Nat.not_lt.mpr h]

theorem encodeFrame_error (cfg : Cfg) (id : CmdId) (p : List Byte) (h : payloadMax < p.length) :
    encodeFrame cfg id p = .error .constructionError := by
  simp [encodeFrame, h]

theorem pad12_length (p : List Byte) (h : p.length ≤ payloadMax) : (pad12 p).length = payloadMax := by
  simp only [pad12, List.length_append, List.length_replicate]; omega

/-- Every command frame is 19 bytes (R66). -/
theorem commandFrame_length (cfg : Cfg) (id : CmdId) (p : List Byte) (h : p.length ≤ payloadMax) :
    (commandFrame cfg id p).length = cmdLen := by
  simp [commandFrame, commandBytes, pad12_length p h, cmdLen, payloadMax]

/-! ### The round trip -/

/-- A round trip that returned had a payload of at most 12 bytes, wrote its frame and received once (R94). -/
theorem roundTrip_done {id : CmdId} {p : List Byte} {s t : State} {r : Except FailCode ResponseFrame}
    (h : roundTrip id p s = .done r t) :
    p.length ≤ payloadMax ∧
      receive (memWrite (commandFrame s.cfg id p) (s.setTxFrame (commandFrame s.cfg id p))) = .done r t := by
  unfold roundTrip at h
  by_cases hp : p.length ≤ payloadMax
  · rw [encodeFrame_ok s.cfg id p hp] at h
    exact ⟨hp, h⟩
  · rw [encodeFrame_error s.cfg id p (by omega)] at h
    simp at h

/-- A round trip of a legal payload is the write of its frame, then RECEIVE_FRAME (R94). -/
theorem roundTrip_eq (id : CmdId) (p : List Byte) (s : State) (h : p.length ≤ payloadMax) :
    roundTrip id p s =
      receive (memWrite (commandFrame s.cfg id p) (s.setTxFrame (commandFrame s.cfg id p))) := by
  unfold roundTrip
  rw [encodeFrame_ok s.cfg id p h]

end Sys2Proof.Machine
end

