-- ==== Sys2Proof/Laws/PerInstr.lean ====
section
/-! SUPPORT. Facts about every instruction as syntax, one lemma per constructor. FitsRow: the word of a well-formed
instruction is of the opcode-table row its constructor stands for (R69). -/

namespace Sys2Proof.Laws.FitsRow

/-- The word of a well-formed instruction has its row's bytes under its row's mask. -/
def Statement (i : Instr) : Prop := i.wellFormed = true → i.row.fits (encode i) = true

theorem fits_commandFrame (name : String) (id : CmdId) (f : CommandFields) (h : f.wellFormed = true) :
    (commandTableRow name (Machine.cmdIdByte id)).fits (Machine.commandBytes id f) = true := by
  obtain ⟨payload, e0, e1, cs⟩ := f
  simp only [CommandFields.wellFormed, payloadMax] at h
  match payload, h with
  | [p0, p1, p2, p3, p4, p5, p6, p7, p8, p9, p10, p11], _ =>
    cases id <;>
      simp [TableRow.fits, commandTableRow, Machine.commandBytes, Machine.cmdIdByte, header, devAddr, tailByte,
        List.replicate]

theorem fits_hostOp (name : String) (code : Byte) (operands : List Byte) :
    (hostTableRow name code).fits (code :: operands) = true := by
  have : code &&& 255#8 = code := by
    apply BitVec.eq_of_toNat_eq
    have := code.isLt
    simp only [BitVec.toNat_and]
    exact Nat.and_two_pow_sub_one_of_lt_two_pow (n := 8) this
  simp [TableRow.fits, hostTableRow, this]

theorem cmdModeSet (f : CommandFields) : Statement (.cmdModeSet f) := fun h =>
  fits_commandFrame "CMD_MODE_SET" .modeSet f h
theorem cmdQueryData (f : CommandFields) : Statement (.cmdQueryData f) := fun h =>
  fits_commandFrame "CMD_QUERY_DATA" .queryData f h
theorem cmdDeviceId (f : CommandFields) : Statement (.cmdDeviceId f) := fun h =>
  fits_commandFrame "CMD_DEVICE_ID" .deviceId f h
theorem cmdSleep (f : CommandFields) : Statement (.cmdSleep f) := fun h =>
  fits_commandFrame "CMD_SLEEP" .sleep f h
theorem cmdFirmware (f : CommandFields) : Statement (.cmdFirmware f) := fun h =>
  fits_commandFrame "CMD_FIRMWARE" .firmware f h
theorem cmdWorkingPeriod (f : CommandFields) : Statement (.cmdWorkingPeriod f) := fun h =>
  fits_commandFrame "CMD_WORKING_PERIOD" .workingPeriod f h
theorem dataReport (f : ReportFields) : Statement (.dataReport f) := fun _ => by
  simp [Instr.row, encode, TableRow.fits, responseTableRow, Machine.reportBody, header, typeData, tailByte,
    List.replicate]
theorem commandEcho (f : ReportFields) : Statement (.commandEcho f) := fun _ => by
  simp [Instr.row, encode, TableRow.fits, responseTableRow, Machine.reportBody, header, typeEcho, tailByte,
    List.replicate]
theorem encodeCommand (id : CmdId) (p : List Byte) : Statement (.encodeCommand id p) := fun _ =>
  fits_hostOp _ _ _
theorem decodeResponse (body : List Byte) : Statement (.decodeResponse body) := fun _ => fits_hostOp _ _ _
theorem decodeMeasurement (f : ResponseFrame) : Statement (.decodeMeasurement f) := fun _ => fits_hostOp _ _ _
theorem receiveFrame : Statement .receiveFrame := fun _ => fits_hostOp _ _ _
theorem setReportMode (active : Bool) : Statement (.setReportMode active) := fun _ => fits_hostOp _ _ _
theorem setSleep (sleep : Bool) : Statement (.setSleep sleep) := fun _ => fits_hostOp _ _ _
theorem query : Statement .query := fun _ => fits_hostOp _ _ _
theorem setWorkingPeriod (p : Byte) : Statement (.setWorkingPeriod p) := fun _ => fits_hostOp _ _ _
theorem readFirmware : Statement .readFirmware := fun _ => fits_hostOp _ _ _
theorem deviceId (n : Nat) (a : Vector Byte n) : Statement (.deviceId n a) := fun _ => fits_hostOp _ _ _
theorem resynchronize : Statement .resynchronize := fun _ => fits_hostOp _ _ _
theorem runCycle : Statement .runCycle := fun _ => fits_hostOp _ _ _
theorem median (v : List Word16) : Statement (.median v) := fun _ => fits_hostOp _ _ _
theorem nextWakeDelay (n : Rat) : Statement (.nextWakeDelay n) := fun _ => fits_hostOp _ _ _

end Sys2Proof.Laws.FitsRow
end

