-- ==== Sys2Proof/Laws/Session.lean ====
section
/-! SUPPORT. What a round trip and the command procedures do, from the lemmas of Laws/Ops. -/

namespace Sys2Proof.Machine

/-- What `Receives` says does not look at the session and the output. -/
theorem Receives.write {evs : List Event} {s t : State} (h : Receives evs s t) (x : Session) (o : Option Output) :
    Receives evs s { t with session := x, output := o } :=
  ⟨h.trace, h.rxFrame, h.rxPhase, h.scanCount, h.rxCount, h.cfg, h.txFrame, h.sampler, h.requests, h.answered,
    h.outgoing, h.incoming, h.lineEnd, h.clock⟩

/-- What `Commanded` says does not look at the session and the output. -/
theorem Commanded.write {id : CmdId} {p : List Byte} {evs : List Event} {s t : State} (h : Commanded id p evs s t)
    (x : Session) (o : Option Output) : Commanded id p evs s { t with session := x, output := o } :=
  ⟨h.trace, h.rxFrame, h.rxPhase, h.scanCount, h.rxCount, h.cfg, h.txFrame, h.sampler, h.requests, h.answered,
    h.outgoing, h.incoming, h.lineEnd, h.clock⟩

/-- A round trip that returned, in the terms of Safety (R94). -/
theorem roundTrip_shows {id : CmdId} {p : List Byte} {s t : State} {r : Except FailCode ResponseFrame}
    (h : roundTrip id p s = .done r t) :
    p.length ≤ payloadMax ∧ ∃ evs, Reception s.cfg evs r ∧ Commanded id p evs s t ∧
      t.session = s.session ∧ t.output = s.output := by
  obtain ⟨hp, h⟩ := roundTrip_done h
  obtain ⟨evs, h1, h2, h3, h4⟩ := receive_shows h
  refine ⟨hp, evs, by simpa [memWrite_eq] using h1, ⟨?_, h2.rxFrame, h2.rxPhase, h2.scanCount, h2.rxCount, h2.cfg,
    h2.txFrame, h2.sampler, h2.requests, h2.answered, ?_, ?_, ?_, ?_⟩, h3, h4⟩
  · rw [h2.trace]; simp [memWrite_eq]
  · rw [h2.outgoing]; simp [memWrite_eq]
  · simpa [memWrite_eq] using h2.incoming
  · rw [h2.lineEnd]; simp [memWrite_eq]
  · rw [h2.clock.1, h2.clock.2]; simp [memWrite_eq]

/-- A round trip of a legal payload returns wherever the scan after its write ends. -/
theorem roundTrip_returns (id : CmdId) (p : List Byte) (s : State) (hp : p.length ≤ payloadMax)
    (h : ScanEnds s.cfg (s.env.write (commandFrame s.cfg id p))) : ∃ r t, roundTrip id p s = .done r t := by
  rw [roundTrip_eq id p s hp]
  exact receive_returns _ h

/-- A round trip of a legal payload never returns where that scan does not end. -/
theorem roundTrip_endless (id : CmdId) (p : List Byte) (s : State) (hp : p.length ≤ payloadMax)
    (h : ¬ ScanEnds s.cfg (s.env.write (commandFrame s.cfg id p))) : roundTrip id p s = .fault .scanNeverEnds := by
  rw [roundTrip_eq id p s hp]
  exact receive_endless _ h

/-! ### The fields of the state after a round trip -/

@[simp] theorem roundTripped_cfg (s : State) (id : CmdId) (p noise body : List Byte) (e : Env) :
    (roundTripped s id p noise body e).cfg = s.cfg := rfl
@[simp] theorem roundTripped_session (s : State) (id : CmdId) (p noise body : List Byte) (e : Env) :
    (roundTripped s id p noise body e).session = s.session := rfl
@[simp] theorem roundTripped_sampler (s : State) (id : CmdId) (p noise body : List Byte) (e : Env) :
    (roundTripped s id p noise body e).sampler = s.sampler := rfl
@[simp] theorem roundTripped_requests (s : State) (id : CmdId) (p noise body : List Byte) (e : Env) :
    (roundTripped s id p noise body e).requests = s.requests := rfl
@[simp] theorem roundTripped_output (s : State) (id : CmdId) (p noise body : List Byte) (e : Env) :
    (roundTripped s id p noise body e).output = s.output := rfl
@[simp] theorem roundTripped_env (s : State) (id : CmdId) (p noise body : List Byte) (e : Env) :
    (roundTripped s id p noise body e).env = e := rfl
@[simp] theorem roundTripped_txFrame (s : State) (id : CmdId) (p noise body : List Byte) (e : Env) :
    (roundTripped s id p noise body e).txFrame = commandFrame s.cfg id p := rfl
@[simp] theorem roundTripped_rx (s : State) (id : CmdId) (p noise body : List Byte) (e : Env) :
    (roundTripped s id p noise body e).rx = ⟨.idle, noise.length, body.length⟩ := rfl
@[simp] theorem roundTripped_rxFrame (s : State) (id : CmdId) (p noise body : List Byte) (e : Env) :
    (roundTripped s id p noise body e).rxFrame = if body.length = 9 then header :: body else s.rxFrame := rfl

@[simp] theorem roundTripMissed_cfg (s : State) (id : CmdId) (p noise : List Byte) (evs : List Event) (e : Env) :
    (roundTripMissed s id p noise evs e).cfg = s.cfg := rfl
@[simp] theorem roundTripMissed_session (s : State) (id : CmdId) (p noise : List Byte) (evs : List Event) (e : Env) :
    (roundTripMissed s id p noise evs e).session = s.session := rfl
@[simp] theorem roundTripMissed_rxFrame (s : State) (id : CmdId) (p noise : List Byte) (evs : List Event) (e : Env) :
    (roundTripMissed s id p noise evs e).rxFrame = s.rxFrame := rfl
@[simp] theorem roundTripMissed_rx (s : State) (id : CmdId) (p noise : List Byte) (evs : List Event) (e : Env) :
    (roundTripMissed s id p noise evs e).rx = ⟨.idle, noise.length, 0⟩ := rfl
@[simp] theorem roundTripMissed_env (s : State) (id : CmdId) (p noise : List Byte) (evs : List Event) (e : Env) :
    (roundTripMissed s id p noise evs e).env = e := rfl

/-! ### A round trip whose answer is known -/

/-- A round trip whose answer arrives behind noise, whatever the line does, every effect. -/
theorem roundTrip_arrives (id : CmdId) (p : List Byte) (s : State) (noise body : List Byte) (e : Env)
    (hp : p.length ≤ payloadMax) (h : FrameArrives s.cfg (s.env.write (commandFrame s.cfg id p)) noise body e) :
    roundTrip id p s = .done (checkBody body) (roundTripped s id p noise body e) := by
  rw [roundTrip_eq id p s hp, receive_arrives _ noise body e h]
  simp [roundTripped, memWrite_eq, State.setTxFrame, scanEvents]

/-- A round trip that meets no header, whatever the line does, every effect. -/
theorem roundTrip_missed (id : CmdId) (p : List Byte) (s : State) (noise : List Byte) (evs : List Event) (e : Env)
    (hp : p.length ≤ payloadMax)
    (h : HeaderMissed s.cfg (s.env.write (commandFrame s.cfg id p)) noise evs e) :
    roundTrip id p s = .done (.error .noHeader) (roundTripMissed s id p noise evs e) := by
  rw [roundTrip_eq id p s hp, receive_missed _ noise evs e h]
  simp [roundTripMissed, memWrite_eq, State.setTxFrame]

/-- A round trip whose answer waits, every effect. -/
theorem roundTrip_waits (id : CmdId) (p : List Byte) (s : State) (noise body rest : List Byte)
    (hp : p.length ≤ payloadMax) (h : FrameWaits s noise body rest) :
    roundTrip id p s = .done (checkBody body)
      { s with
        env := { s.env with inBuf := rest, outBuf := s.env.outBuf ++ commandFrame s.cfg id p }
        trace := s.trace ++ .write (commandFrame s.cfg id p) ::
          (scanEvents noise ++ [.read 1 [header], .read 9 body])
        txFrame := commandFrame s.cfg id p
        rx := ⟨.idle, noise.length, 9⟩
        rxFrame := header :: body } := by
  have hw : s.env.write (commandFrame s.cfg id p) =
      { s.env with outBuf := s.env.outBuf ++ commandFrame s.cfg id p } := by
    simp [Env.write, s.env.advance_of_line_nil h.1]
  have h' : FrameWaits { s with env := s.env.write (commandFrame s.cfg id p) } noise body rest := by
    simpa [FrameWaits, hw] using h
  rw [roundTrip_arrives id p s noise body _ hp h'.arrives]
  simp [roundTripped, hw, h.2.2.2, scanEvents]

/-- The model's echo check is the rule's (R96). -/
theorem echoOk_iff (cfg : Cfg) (r : Except FailCode ResponseFrame) (id : CmdId) :
    echoOk cfg (frameOf r) id = true ↔ ValidEcho cfg (cmdIdByte id) r := by
  cases r with
  | error c => simp [frameOf, echoOk, ValidEcho]
  | ok f =>
    simp only [frameOf, echoOk, ValidEcho, Bool.and_eq_true, Bool.or_eq_true, Bool.not_eq_true',
      decide_eq_true_eq, Except.ok.injEq, exists_eq_left']
    exact and_congr Iff.rfl (by cases cfg.echoIdCheck <;> simp)

/-- A mode-set command (R97): on a valid echo, and only then, the session is written. -/
theorem modeCommand_shows {p : List Byte} {mode : Option Bool} {s t : State} {ok : Bool}
    (h : modeCommand p mode s = .done ok t) :
    p.length ≤ payloadMax ∧ ∃ evs r, Reception s.cfg evs r ∧ Commanded .modeSet p evs s t ∧
      ok = echoOk s.cfg (frameOf r) .modeSet ∧ t.output = s.output ∧
      t.session = sessionAfterMode s.session ok mode := by
  obtain ⟨r, u, hr, hk⟩ := Run.andThen_done h
  obtain ⟨hp, evs, h1, h2, h3, h4⟩ := roundTrip_shows hr
  refine ⟨hp, evs, r, h1, ?_⟩
  split at hk
  · rename_i he
    rw [h2.cfg] at he
    cases mode with
    | some active =>
      simp only [Run.done.injEq] at hk
      obtain ⟨rfl, rfl⟩ := hk
      refine ⟨h2.write _ _, he.symm, h4, ?_⟩
      simp [sessionAfterMode, h3]
    | none =>
      simp only [Run.done.injEq] at hk
      obtain ⟨rfl, rfl⟩ := hk
      exact ⟨h2, he.symm, h4, h3⟩
  · rename_i he
    rw [h2.cfg] at he
    simp only [Run.done.injEq] at hk
    obtain ⟨rfl, rfl⟩ := hk
    exact ⟨h2, by simpa using he, h4, h3⟩

/-- A sleep command (R98): on a valid echo, and only then, the power shadow is written. -/
theorem sleepCommand_shows {p : List Byte} {sleep : Option Bool} {s t : State} {ok : Bool}
    (h : sleepCommand p sleep s = .done ok t) :
    p.length ≤ payloadMax ∧ ∃ evs r, Reception s.cfg evs r ∧ Commanded .sleep p evs s t ∧
      ok = echoOk s.cfg (frameOf r) .sleep ∧ t.output = s.output ∧
      t.session = sessionAfterSleep s.session ok sleep := by
  obtain ⟨r, u, hr, hk⟩ := Run.andThen_done h
  obtain ⟨hp, evs, h1, h2, h3, h4⟩ := roundTrip_shows hr
  refine ⟨hp, evs, r, h1, ?_⟩
  split at hk
  · rename_i he
    rw [h2.cfg] at he
    cases sleep with
    | some b =>
      simp only [Run.done.injEq] at hk
      obtain ⟨rfl, rfl⟩ := hk
      refine ⟨h2.write _ _, he.symm, h4, ?_⟩
      simp [sessionAfterSleep, h3]
    | none =>
      simp only [Run.done.injEq] at hk
      obtain ⟨rfl, rfl⟩ := hk
      exact ⟨h2, he.symm, h4, h3⟩
  · rename_i he
    rw [h2.cfg] at he
    simp only [Run.done.injEq] at hk
    obtain ⟨rfl, rfl⟩ := hk
    exact ⟨h2, by simpa using he, h4, h3⟩

/-- What QUERY makes of a reception (R99, R133): the first failing check, else the measurement. -/
def measured (r : Except FailCode ResponseFrame) : Except FailCode Measurement :=
  match r with
  | .error c => .error c
  | .ok f => toMeasurement f

/-- A query-data command (R99). -/
theorem queryCommand_shows {p : List Byte} {s t : State} {m : Except FailCode Measurement}
    (h : queryCommand p s = .done m t) :
    p.length ≤ payloadMax ∧ ∃ evs r, Reception s.cfg evs r ∧ Commanded .queryData p evs s t ∧
      m = measured r ∧ t.session = s.session ∧ t.output = s.output := by
  obtain ⟨r, u, hr, hk⟩ := Run.andThen_done h
  obtain ⟨hp, evs, h1, h2, h3, h4⟩ := roundTrip_shows hr
  cases r with
  | error c =>
    simp only [Run.done.injEq] at hk
    obtain ⟨rfl, rfl⟩ := hk
    exact ⟨hp, evs, _, h1, h2, rfl, h3, h4⟩
  | ok f =>
    simp only [Run.done.injEq] at hk
    obtain ⟨rfl, rfl⟩ := hk
    exact ⟨hp, evs, _, h1, h2, rfl, h3, h4⟩

/-- A command whose result is its raw echo (R100, R101, R102). -/
theorem echoCommand_shows {id : CmdId} {p : List Byte} {s t : State} {a : Option ResponseFrame}
    (h : echoCommand id p s = .done a t) :
    p.length ≤ payloadMax ∧ ∃ evs r, Reception s.cfg evs r ∧ Commanded id p evs s t ∧
      a = (if echoOk s.cfg (frameOf r) id then frameOf r else none) ∧
      t.session = s.session ∧ t.output = s.output := by
  obtain ⟨r, u, hr, hk⟩ := Run.andThen_done h
  obtain ⟨hp, evs, h1, h2, h3, h4⟩ := roundTrip_shows hr
  refine ⟨hp, evs, r, h1, ?_⟩
  split at hk
  · rename_i he
    rw [h2.cfg] at he
    simp only [Run.done.injEq] at hk
    obtain ⟨rfl, rfl⟩ := hk
    exact ⟨h2, by simp [he], h3, h4⟩
  · rename_i he
    rw [h2.cfg] at he
    simp only [Run.done.injEq] at hk
    obtain ⟨rfl, rfl⟩ := hk
    exact ⟨h2, by simp [he], h3, h4⟩

/-! ### Legal payloads (R11) -/

/-- What the legal values of CFG are, taken apart. -/
theorem ConfigLegal.lengths {s : State} (h : ConfigLegal s) :
    s.cfg.plModeActive.length ≤ payloadMax ∧ s.cfg.plModeQuery.length ≤ payloadMax ∧
      s.cfg.plSleep.length ≤ payloadMax ∧ s.cfg.plWake.length ≤ payloadMax ∧
      s.cfg.plQuery.length ≤ payloadMax ∧ s.cfg.plFirmware.length ≤ payloadMax := by
  simp only [ConfigLegal, cfgLegal, Bool.and_eq_true, decide_eq_true_eq, List.all_cons, List.all_nil] at h
  obtain ⟨⟨⟨_, h1, h2, h3, h4, h5, h6, _⟩, _⟩, _⟩ := h
  exact ⟨h1, h2, h3, h4, h5, h6⟩

theorem ConfigLegal.nSamples {s : State} (h : ConfigLegal s) : 1 ≤ s.cfg.nSamples := by
  simp only [ConfigLegal, cfgLegal, Bool.and_eq_true, decide_eq_true_eq] at h
  exact h.1.1.1.1.1

theorem ConfigLegal.period {s : State} (h : ConfigLegal s) : 0 < s.cfg.period.num := by
  simp only [ConfigLegal, cfgLegal, Bool.and_eq_true, decide_eq_true_eq] at h
  exact h.1.1.1.1.2

theorem ConfigLegal.modePayload {s : State} (h : ConfigLegal s) (active : Bool) :
    (Machine.modePayload s.cfg active).length ≤ payloadMax := by
  cases active
  · exact h.lengths.2.1
  · exact h.lengths.1

theorem ConfigLegal.sleepPayload {s : State} (h : ConfigLegal s) (sleep : Bool) :
    (Machine.sleepPayload s.cfg sleep).length ≤ payloadMax := by
  cases sleep
  · exact h.lengths.2.2.2.1
  · exact h.lengths.2.2.1

/-- A legal payload function gives legal payloads only. -/
theorem payloadOf_length {f : PayloadFn} (h : payloadFnLegal f = true) (a : List Byte) :
    (payloadOf f a).length ≤ payloadMax := by
  simp only [payloadFnLegal, Bool.and_eq_true, decide_eq_true_eq, List.all_eq_true] at h
  unfold payloadOf
  split
  · rename_i row hrow
    exact h.1.2 row (List.mem_of_find?_eq_some hrow)
  · simpa using h.1.1

theorem ConfigLegal.workingPeriod {s : State} (h : ConfigLegal s) (p : Byte) :
    (payloadOf s.cfg.plWorkingPeriod [p]).length ≤ payloadMax := by
  simp only [ConfigLegal, cfgLegal, Bool.and_eq_true] at h
  exact payloadOf_length h.1.2.2 _

theorem ConfigLegal.deviceId {s : State} (h : ConfigLegal s) (a : List Byte) :
    (payloadOf s.cfg.plDeviceId a).length ≤ payloadMax := by
  simp only [ConfigLegal, cfgLegal, Bool.and_eq_true] at h
  exact payloadOf_length h.2 _

/-! ### DEVICE_ID's argument (R102) -/

/-- DEVICE_ID of an argument of PL_DEVICE_ID is its round trip. -/
theorem execDeviceId_takes {n : Nat} {a : Vector Byte n} {s : State} (h : n ∈ s.cfg.plDeviceId.lengths) :
    execDeviceId n a s = (echoCommand .deviceId (payloadOf s.cfg.plDeviceId a.toList) s).returns echoOutput :=
  if_pos (by simp [payloadTakes, h])

/-- DEVICE_ID of anything else is refused. -/
theorem execDeviceId_refuses {n : Nat} {a : Vector Byte n} {s : State} (h : n ∉ s.cfg.plDeviceId.lengths) :
    execDeviceId n a s = .refused .notAnArgument :=
  if_neg (by simp [payloadTakes, h])

/-- DEVICE_ID that answers a next state had an argument of PL_DEVICE_ID and made its round trip. -/
theorem execDeviceId_next {n : Nat} {a : Vector Byte n} {s t : State} (h : execDeviceId n a s = .next t) :
    n ∈ s.cfg.plDeviceId.lengths ∧
      (echoCommand .deviceId (payloadOf s.cfg.plDeviceId a.toList) s).returns echoOutput = .next t := by
  by_cases ha : n ∈ s.cfg.plDeviceId.lengths
  · exact ⟨ha, by rwa [execDeviceId_takes ha] at h⟩
  · rw [execDeviceId_refuses ha] at h; simp at h

/-! ### The procedures' outcomes: they return wherever the scan after their write ends, and otherwise never -/

theorem modeCommand_returns (p : List Byte) (mode : Option Bool) (s : State) (hp : p.length ≤ payloadMax)
    (h : ScanEnds s.cfg (s.env.write (commandFrame s.cfg .modeSet p))) : ∃ ok t, modeCommand p mode s = .done ok t := by
  obtain ⟨r, t, hr⟩ := roundTrip_returns .modeSet p s hp h
  simp only [modeCommand, hr, Run.andThen_done_eq]
  split
  · cases mode <;> exact ⟨_, _, rfl⟩
  · exact ⟨_, _, rfl⟩

theorem modeCommand_outcomes (p : List Byte) (mode : Option Bool) (s : State) (hp : p.length ≤ payloadMax) :
    (∃ ok t, modeCommand p mode s = .done ok t) ∨ modeCommand p mode s = .fault .scanNeverEnds := by
  by_cases h : ScanEnds s.cfg (s.env.write (commandFrame s.cfg .modeSet p))
  · exact .inl (modeCommand_returns p mode s hp h)
  · exact .inr (by rw [modeCommand, roundTrip_endless .modeSet p s hp h]; rfl)

theorem sleepCommand_returns (p : List Byte) (sleep : Option Bool) (s : State) (hp : p.length ≤ payloadMax)
    (h : ScanEnds s.cfg (s.env.write (commandFrame s.cfg .sleep p))) : ∃ ok t, sleepCommand p sleep s = .done ok t := by
  obtain ⟨r, t, hr⟩ := roundTrip_returns .sleep p s hp h
  simp only [sleepCommand, hr, Run.andThen_done_eq]
  split
  · cases sleep <;> exact ⟨_, _, rfl⟩
  · exact ⟨_, _, rfl⟩

theorem sleepCommand_outcomes (p : List Byte) (sleep : Option Bool) (s : State) (hp : p.length ≤ payloadMax) :
    (∃ ok t, sleepCommand p sleep s = .done ok t) ∨ sleepCommand p sleep s = .fault .scanNeverEnds := by
  by_cases h : ScanEnds s.cfg (s.env.write (commandFrame s.cfg .sleep p))
  · exact .inl (sleepCommand_returns p sleep s hp h)
  · exact .inr (by rw [sleepCommand, roundTrip_endless .sleep p s hp h]; rfl)

theorem queryCommand_returns (p : List Byte) (s : State) (hp : p.length ≤ payloadMax)
    (h : ScanEnds s.cfg (s.env.write (commandFrame s.cfg .queryData p))) : ∃ m t, queryCommand p s = .done m t := by
  obtain ⟨r, t, hr⟩ := roundTrip_returns .queryData p s hp h
  simp only [queryCommand, hr, Run.andThen_done_eq]
  cases r <;> exact ⟨_, _, rfl⟩

theorem queryCommand_outcomes (p : List Byte) (s : State) (hp : p.length ≤ payloadMax) :
    (∃ m t, queryCommand p s = .done m t) ∨ queryCommand p s = .fault .scanNeverEnds := by
  by_cases h : ScanEnds s.cfg (s.env.write (commandFrame s.cfg .queryData p))
  · exact .inl (queryCommand_returns p s hp h)
  · exact .inr (by rw [queryCommand, roundTrip_endless .queryData p s hp h]; rfl)

theorem echoCommand_returns (id : CmdId) (p : List Byte) (s : State) (hp : p.length ≤ payloadMax)
    (h : ScanEnds s.cfg (s.env.write (commandFrame s.cfg id p))) : ∃ a t, echoCommand id p s = .done a t := by
  obtain ⟨r, t, hr⟩ := roundTrip_returns id p s hp h
  simp only [echoCommand, hr, Run.andThen_done_eq]
  split <;> exact ⟨_, _, rfl⟩

end Sys2Proof.Machine
end

