-- ==== Sys2Proof/Laws/Sampler.lean ====
section
/-! SUPPORT. What each part of a cycle does (spec/42_sampler.md R110 to R119), from the lemmas of Laws/Session. -/

namespace Sys2Proof.Machine

/-! ### What every part keeps -/

/-- What no part of an operation disturbs: CFG, the requests, the clock's answers (no part here reads it), the end of
the line, the output port, and the widths and ranges of the buffers and counts. -/
structure Keeps (s t : State) : Prop where
  cfg : t.cfg = s.cfg
  requests : t.requests = s.requests
  clock : t.env.clock = s.env.clock
  clockEnd : t.env.clockEnd = s.env.clockEnd
  lineEnd : t.env.lineEnd = s.env.lineEnd
  output : t.output = s.output
  txFrame : s.txFrame.length = cmdLen → t.txFrame.length = cmdLen
  rxFrame : s.rxFrame.length = rspLen → t.rxFrame.length = rspLen
  rxPhase : s.rx.phase = .idle → t.rx.phase = .idle
  rxCount : s.rx.rxCount ≤ 9 → t.rx.rxCount ≤ 9

theorem rxFrameAfter_length (evs : List Event) (old : List Byte) (h : old.length = rspLen) :
    (rxFrameAfter old evs).length = rspLen := by
  induction evs generalizing old with
  | nil => exact h
  | cons e es ih =>
    cases e with
    | read n a =>
      refine ih _ ?_
      split
      · rename_i hn; simp [hn.2, rspLen]
      · exact h
    | write v => exact ih _ h
    | resetIn => exact ih _ h
    | resetOut => exact ih _ h
    | reopen => exact ih _ h
    | wait l => exact ih _ h
    | now t => exact ih _ h
    | publish x y => exact ih _ h

theorem Keeps.refl (s : State) : Keeps s s := ⟨rfl, rfl, rfl, rfl, rfl, rfl, id, id, id, id⟩

theorem Keeps.trans {s t u : State} (h : Keeps s t) (k : Keeps t u) : Keeps s u :=
  ⟨k.cfg.trans h.cfg, k.requests.trans h.requests, k.clock.trans h.clock, k.clockEnd.trans h.clockEnd,
    k.lineEnd.trans h.lineEnd, k.output.trans h.output, k.txFrame ∘ h.txFrame, k.rxFrame ∘ h.rxFrame,
    k.rxPhase ∘ h.rxPhase, k.rxCount ∘ h.rxCount⟩

theorem Commanded.keeps {id : CmdId} {p : List Byte} {evs : List Event} {s t : State}
    (h : Commanded id p evs s t) (hp : p.length ≤ payloadMax) (ho : t.output = s.output) : Keeps s t := by
  refine ⟨h.cfg, h.requests, h.clock.1, h.clock.2, h.lineEnd, ho, ?_, ?_, fun _ => h.rxPhase, fun _ => h.rxCount⟩
  · intro _; rw [h.txFrame, commandFrame_length s.cfg id p hp]
  · intro hr
    rw [h.rxFrame]
    exact rxFrameAfter_length evs s.rxFrame hr

theorem wait_keeps (l : WaitLabel) (s : State) : Keeps s (wait l s) := by
  rw [wait_eq]
  exact ⟨rfl, rfl, by simp, by simp, by simp, rfl, id, id, id, id⟩

theorem resynchronize_keeps (s : State) : Keeps s (resynchronize s) := by
  rw [resynchronize_eq]
  exact ⟨rfl, rfl, by simp, by simp, by simp, rfl, id, id, id, id⟩

/-- A write of the sampler's own state keeps all the rest. -/
theorem keeps_of_sampler (s : State) (b : Sampler) : Keeps s { s with sampler := b } :=
  ⟨rfl, rfl, rfl, rfl, rfl, rfl, id, id, id, id⟩

/-! ### What every part shows -/

/-- What a part that showed these events did to the trace, `rx_frame` and the environment: every event is as the
environment answered, which says where the bytes went (`Answered.outgoing`, `Answered.incoming`). -/
structure Moves (evs : List Event) (s t : State) : Prop where
  trace : t.trace = s.trace ++ evs
  rxFrame : t.rxFrame = rxFrameAfter s.rxFrame evs
  answered : Answered s.env evs t.env

theorem Moves.trans {a b : List Event} {s t u : State} (h : Moves a s t) (k : Moves b t u) : Moves (a ++ b) s u :=
  ⟨by rw [k.trace, h.trace, List.append_assoc], by rw [k.rxFrame, h.rxFrame, rxFrameAfter_append],
    h.answered.trans k.answered⟩

theorem Moves.cast {a b : List Event} {s t : State} (h : Moves a s t) (e : a = b) : Moves b s t := e ▸ h

/-- A part that leaves the environment, the trace and `rx_frame` alone. -/
theorem moves_nothing {s t : State} (he : t.env = s.env) (ht : t.trace = s.trace) (hf : t.rxFrame = s.rxFrame) :
    Moves [] s t :=
  ⟨by simp [ht], by simp [hf, rxFrameAfter], he⟩

/-- A write of the engine's other state before a part, or after it, shows nothing. -/
theorem Moves.after {a : List Event} {u t : State} (h : Moves a u t) (s : State) (he : u.env = s.env)
    (ht : u.trace = s.trace) (hf : u.rxFrame = s.rxFrame) : Moves a s t :=
  (moves_nothing he ht hf).trans h

theorem Moves.andThen {a : List Event} {s u : State} (h : Moves a s u) (t : State) (he : t.env = u.env)
    (ht : t.trace = u.trace) (hf : t.rxFrame = u.rxFrame) : Moves a s t :=
  (h.trans (moves_nothing he ht hf)).cast (List.append_nil a)

theorem Receives.moves {evs : List Event} {s t : State} (h : Receives evs s t) : Moves evs s t :=
  ⟨h.trace, h.rxFrame, h.answered⟩

theorem Commanded.moves {id : CmdId} {p : List Byte} {evs : List Event} {s t : State} (h : Commanded id p evs s t) :
    Moves (.write (commandFrame s.cfg id p) :: evs) s t :=
  ⟨h.trace, by rw [h.rxFrame, rxFrameAfter], h.answered⟩

theorem wait_moves (l : WaitLabel) (s : State) : Moves [.wait l] s (wait l s) := ⟨rfl, rfl, rfl⟩

theorem now_moves (s : State) : Moves [.now s.env.clockAnswer] s (now s) := ⟨rfl, rfl, rfl, rfl⟩

theorem publish_moves (a b : Rat) (s : State) : Moves [.publish a b] s (publish a b s) := ⟨rfl, rfl, rfl⟩

theorem resynchronize_moves (s : State) : Moves [.resetIn, .resetOut, .reopen] s (resynchronize s) := by
  rw [resynchronize_eq]
  exact ⟨rfl, rfl, rfl⟩

/-! ### Step 1 (R112) -/

theorem wakeAndMode_shows {s t : State} {x : Unit} (h : wakeAndMode s = .done x t) :
    ∃ e1 r1 e2 r2, Reception s.cfg e1 r1 ∧ Reception s.cfg e2 r2 ∧ Keeps s t ∧
      t.sampler = { s.sampler with phase := .mode } ∧
      t.session = sessionAfterMode
        (sessionAfterSleep s.session (echoOk s.cfg (frameOf r1) .sleep) (some false))
        (echoOk s.cfg (frameOf r2) .modeSet) (some false) ∧
      Moves ([.write (commandFrame s.cfg .sleep s.cfg.plWake)] ++ e1 ++
        [.wait .settle, .write (commandFrame s.cfg .modeSet s.cfg.plModeQuery)] ++ e2) s t := by
  obtain ⟨_, s1, h1, h⟩ := Run.andThen_done h
  obtain ⟨_, s2, h2, h⟩ := Run.andThen_done h
  simp only [Run.done.injEq] at h
  obtain ⟨_, rfl⟩ := h
  obtain ⟨p1, e1, r1, hr1, c1, rfl, o1, x1⟩ := sleepCommand_shows h1
  obtain ⟨p2, e2, r2, hr2, c2, rfl, o2, x2⟩ := modeCommand_shows h2
  have k1 : Keeps s s1 := (keeps_of_sampler s _).trans (c1.keeps p1 o1)
  have k12 : Keeps s1 ((wait .settle (s1.setPhase .settle)).setPhase .mode) :=
    ((keeps_of_sampler s1 _).trans (wait_keeps .settle _)).trans (keeps_of_sampler _ _)
  have k2 := k12.trans (c2.keeps p2 o2)
  have hcfg : ((wait .settle (s1.setPhase .settle)).setPhase .mode).cfg = s.cfg := k12.cfg.trans k1.cfg
  have m1 : Moves (.write (commandFrame s.cfg .sleep s.cfg.plWake) :: e1) s s1 :=
    c1.moves.after s rfl rfl rfl
  have m2 : Moves [.wait .settle] s1 ((wait .settle (s1.setPhase .settle)).setPhase .mode) :=
    ((wait_moves .settle (s1.setPhase .settle)).after s1 rfl rfl rfl).andThen ((wait .settle (s1.setPhase .settle)).setPhase .mode)
      rfl rfl rfl
  have m3 := c2.moves
  rw [hcfg] at hr2 x2 m3
  refine ⟨e1, r1, e2, r2, hr1, hr2, k1.trans k2, ?_, ?_, ?_⟩
  · rw [c2.sampler]; simp [wait_eq, c1.sampler]
  · rw [x2]; simp [wait_eq, x1]
  · refine ((m1.trans m2).trans m3).cast ?_
    have hp : modePayload s.cfg false = s.cfg.plModeQuery := rfl
    simp [hp]

/-- The premises of a completion statement go along with whatever keeps CFG and the end of the line. -/
theorem Keeps.legal {s t : State} (h : Keeps s t) (hc : ConfigLegal s) : ConfigLegal t := by
  unfold ConfigLegal; rw [h.cfg]; exact hc

theorem Keeps.settles {s t : State} (h : Keeps s t) (hl : LineSettles s) : LineSettles t := by
  unfold LineSettles; rw [h.cfg, h.lineEnd]; exact hl

/-- A part of a cycle returns where every scan ends, and otherwise returns or never ends: it has no other outcome. -/
def Outcomes {α : Type} (s : State) (r : Run α) : Prop :=
  (∃ a t, r = .done a t ∧ Keeps s t) ∨ (r = .fault .scanNeverEnds ∧ ¬ LineSettles s)

theorem Outcomes.andThen {α β : Type} {s : State} {r : Run α} {k : α → State → Run β} (h : Outcomes s r)
    (hk : ∀ a t, r = .done a t → Keeps s t → Outcomes t (k a t)) : Outcomes s (r.andThen k) := by
  rcases h with ⟨a, t, rfl, hs⟩ | ⟨rfl, hl⟩
  · rcases hk a t rfl hs with ⟨b, u, hb, hu⟩ | ⟨hf, hl⟩
    · exact .inl ⟨b, u, hb, hs.trans hu⟩
    · exact .inr ⟨hf, fun hh => hl (hs.settles hh)⟩
  · exact .inr ⟨rfl, hl⟩

theorem Outcomes.of_keeps {α : Type} {s t : State} {r : Run α} (h : Outcomes t r) (k : Keeps s t) : Outcomes s r := by
  rcases h with ⟨a, u, hr, hu⟩ | ⟨hf, hl⟩
  · exact .inl ⟨a, u, hr, k.trans hu⟩
  · exact .inr ⟨hf, fun hh => hl (k.settles hh)⟩

theorem setSleep_outcomes (b : Bool) (s : State) (hc : ConfigLegal s) : Outcomes s (setSleep b s) := by
  by_cases he : ScanEnds s.cfg (s.env.write (commandFrame s.cfg .sleep (sleepPayload s.cfg b)))
  · obtain ⟨ok, t, h⟩ := sleepCommand_returns _ (some b) s (hc.sleepPayload b) he
    obtain ⟨hp, evs, r, _, h2, _, h4, _⟩ := sleepCommand_shows h
    exact .inl ⟨ok, t, h, h2.keeps hp h4⟩
  · refine .inr ⟨?_, fun hl => he (hl.scanEnds _ (by simp))⟩
    rw [setSleep, sleepCommand, roundTrip_endless .sleep _ s (hc.sleepPayload b) he]; rfl

theorem setReportMode_outcomes (b : Bool) (s : State) (hc : ConfigLegal s) : Outcomes s (setReportMode b s) := by
  by_cases he : ScanEnds s.cfg (s.env.write (commandFrame s.cfg .modeSet (modePayload s.cfg b)))
  · obtain ⟨ok, t, h⟩ := modeCommand_returns _ (some b) s (hc.modePayload b) he
    obtain ⟨hp, evs, r, _, h2, _, h4, _⟩ := modeCommand_shows h
    exact .inl ⟨ok, t, h, h2.keeps hp h4⟩
  · refine .inr ⟨?_, fun hl => he (hl.scanEnds _ (by simp))⟩
    rw [setReportMode, modeCommand, roundTrip_endless .modeSet _ s (hc.modePayload b) he]; rfl

theorem query_outcomes (s : State) (hc : ConfigLegal s) : Outcomes s (query s) := by
  have hp := hc.lengths.2.2.2.2.1
  by_cases he : ScanEnds s.cfg (s.env.write (commandFrame s.cfg .queryData s.cfg.plQuery))
  · obtain ⟨m, t, h⟩ := queryCommand_returns _ s hp he
    obtain ⟨_, evs, r, _, h2, _, _, h4⟩ := queryCommand_shows h
    exact .inl ⟨m, t, h, h2.keeps hp h4⟩
  · refine .inr ⟨?_, fun hl => he (hl.scanEnds _ (by simp))⟩
    rw [query, queryCommand, roundTrip_endless .queryData _ s hp he]; rfl

theorem wakeAndMode_outcomes (s : State) (hc : ConfigLegal s) : Outcomes s (wakeAndMode s) := by
  have k0 : Keeps s (s.setPhase .wake) := keeps_of_sampler s _
  refine ((setSleep_outcomes false (s.setPhase .wake) (k0.legal hc)).of_keeps k0).andThen fun _ t _ k1 => ?_
  have k2 : Keeps t ((wait .settle (t.setPhase .settle)).setPhase .mode) :=
    ((keeps_of_sampler t _).trans (wait_keeps .settle _)).trans (keeps_of_sampler _ _)
  exact ((setReportMode_outcomes false _ ((k1.trans k2).legal hc)).of_keeps k2).andThen
    fun _ u _ _ => .inl ⟨(), u, rfl, .refl u⟩

/-! ### Step 2 (R113) -/

theorem beginRound_keeps (s : State) : Keeps s (beginRound s) :=
  ((keeps_of_sampler s _).trans (wait_keeps .interSample _)).trans (keeps_of_sampler _ _)

theorem recoveryAction_keeps (s : State) : Keeps s (recoveryAction s) :=
  (((keeps_of_sampler s _).trans (wait_keeps .recovery _)).trans (resynchronize_keeps _)).trans (keeps_of_sampler _ _)

theorem runRounds_shows (k : Nat) : ∀ {s t : State} {x : Unit}, runRounds k s = .done x t →
    ∃ er ms aborted, Rounds s.cfg k er ms aborted ∧ Keeps s t ∧
      t.sampler.batch = s.sampler.batch ++ ms ∧
      t.sampler.round = s.sampler.round + ms.length + (if aborted then 1 else 0) ∧
      t.sampler.recoveryCount = s.sampler.recoveryCount + (if aborted then 1 else 0) ∧
      t.session = s.session ∧ Moves er s t := by
  induction k with
  | zero =>
    intro s t x h
    simp only [runRounds, Run.done.injEq] at h
    obtain ⟨_, rfl⟩ := h
    exact ⟨[], [], false, .complete, .refl s, by simp, by simp, by simp, rfl, moves_nothing rfl rfl rfl⟩
  | succ k ih =>
    intro s t x h
    obtain ⟨m, u, hq, hk⟩ := Run.andThen_done h
    obtain ⟨hp, evs, r, hr, hc, rfl, hs, ho⟩ := queryCommand_shows hq
    have kb := beginRound_keeps s
    have ku : Keeps s u := kb.trans (hc.keeps hp ho)
    have hsam : u.sampler = (beginRound s).sampler := hc.sampler
    have hses : u.session = s.session := by rw [hs]; simp [beginRound, wait_eq]
    have htr : Moves ([.wait .interSample, .write (commandFrame s.cfg .queryData s.cfg.plQuery)] ++ evs) s u := by
      have m1 : Moves [.wait .interSample] s (beginRound s) :=
        ((wait_moves .interSample ((s.setRound (s.sampler.round + 1)).setPhase .roundWait)).after s rfl rfl rfl).andThen
          (beginRound s) rfl rfl rfl
      exact (m1.trans hc.moves).cast (by simp [kb.cfg])
    rw [kb.cfg] at hr
    split at hk
    · rename_i m hm
      obtain ⟨f, rfl, hf⟩ : ∃ f, r = .ok f ∧ toMeasurement f = .ok m := by
        cases r with
        | error c => simp [measured] at hm
        | ok f => exact ⟨f, rfl, hm⟩
      have ks : Keeps u (u.setBatch (u.sampler.batch ++ [m])) := keeps_of_sampler u _
      obtain ⟨er, ms, ab, h1, h2, h3, h4, h5, h6, h7⟩ := ih hk
      have hcu : (u.setBatch (u.sampler.batch ++ [m])).cfg = s.cfg := ks.cfg.trans ku.cfg
      rw [hcu] at h1
      refine ⟨_, m :: ms, ab, .good k evs er f m ms ab hr hf h1, (ku.trans ks).trans h2, ?_, ?_, ?_, ?_, ?_⟩
      · rw [h3]; simp [hsam, beginRound, wait_eq]
      · rw [h4]; simp [hsam, beginRound, wait_eq]; omega
      · rw [h5]; simp [hsam, beginRound, wait_eq]
      · rw [h6]; simpa using hses
      · exact htr.trans (h7.after u rfl rfl rfl)
    · rename_i c hm
      simp only [Run.done.injEq] at hk
      obtain ⟨_, rfl⟩ := hk
      refine ⟨_, [], true, .failed k evs r hr ?_, ku.trans (recoveryAction_keeps u), ?_, ?_, ?_, ?_, ?_⟩
      · rintro f rfl hf
        simp [measured, toMeasurement, hf] at hm
      · rw [recoveryAction_eq]; simp [hsam, beginRound, wait_eq]
      · rw [recoveryAction_eq]; simp [hsam, beginRound, wait_eq]
      · rw [recoveryAction_eq]; simp [hsam, beginRound, wait_eq]
      · rw [recoveryAction_eq]; simpa using hses
      · refine htr.trans ?_
        exact (((wait_moves .recovery (u.setPhase .recover)).after u rfl rfl rfl).trans
          (resynchronize_moves _)).andThen (recoveryAction u) rfl rfl rfl

theorem runRounds_outcomes (k : Nat) : ∀ s : State, ConfigLegal s → Outcomes s (runRounds k s) := by
  induction k with
  | zero => intro s _; exact .inl ⟨(), s, rfl, .refl s⟩
  | succ k ih =>
    intro s hc
    have kb := beginRound_keeps s
    refine ((query_outcomes (beginRound s) (kb.legal hc)).of_keeps kb).andThen fun r t _ k1 => ?_
    cases r with
    | ok m =>
      have ks : Keeps t (t.setBatch (t.sampler.batch ++ [m])) := keeps_of_sampler t _
      exact (ih _ ((k1.trans ks).legal hc)).of_keeps ks
    | error c => exact .inl ⟨(), _, rfl, recoveryAction_keeps t⟩

/-- The rounds end with all of them good or with one failed (R113). -/
theorem Rounds.count {cfg : Cfg} {k : Nat} {er : List Event} {ms : List Measurement} {aborted : Bool}
    (h : Rounds cfg k er ms aborted) :
    (aborted = false → ms.length = k) ∧ (aborted = true → ms.length < k) := by
  induction h with
  | complete => simp
  | good k evs rest f m ms ab hr hm h ih =>
    simp only [List.length_cons]
    exact ⟨fun e => by have := ih.1 e; omega, fun e => by have := ih.2 e; omega⟩
  | failed => simp

/-! ### Step 3 (R114) -/

theorem backToSleep_shows {s t : State} {x : Unit} (h : backToSleep s = .done x t) :
    ∃ e3 r3, Reception s.cfg e3 r3 ∧ Keeps s t ∧ t.sampler = { s.sampler with phase := .sleep } ∧
      t.session = sessionAfterSleep s.session (echoOk s.cfg (frameOf r3) .sleep) (some true) ∧
      t.txFrame = commandFrame s.cfg .sleep s.cfg.plSleep ∧
      Moves (.write (commandFrame s.cfg .sleep s.cfg.plSleep) :: e3) s t := by
  obtain ⟨_, s1, h1, h⟩ := Run.andThen_done h
  simp only [Run.done.injEq] at h
  obtain ⟨_, rfl⟩ := h
  obtain ⟨p1, e1, r1, hr1, c1, rfl, o1, x1⟩ := sleepCommand_shows h1
  refine ⟨e1, r1, hr1, (keeps_of_sampler s _).trans (c1.keeps p1 o1), ?_, ?_, c1.txFrame, ?_⟩
  · rw [c1.sampler]; simp
  · rw [x1]; simp
  · exact c1.moves.after s rfl rfl rfl

theorem backToSleep_outcomes (s : State) (hc : ConfigLegal s) : Outcomes s (backToSleep s) := by
  have k0 : Keeps s (s.setPhase .sleep) := keeps_of_sampler s _
  exact ((setSleep_outcomes true (s.setPhase .sleep) (k0.legal hc)).of_keeps k0).andThen
    fun _ u _ _ => .inl ⟨(), u, rfl, .refl u⟩

/-! ### Steps 4 and 5 (R110, R116 to R119) -/

/-- The aggregate of these measurements, stamped `now` (R117). -/
def sampleOf (ms : List Measurement) (now : Rat) : AggregatedSample where
  pm25 := medianOf (ms.map (fun m => m.pm25Raw.toNat)) / 10
  pm10 := medianOf (ms.map (fun m => m.pm10Raw.toNat)) / 10
  timestamp := now

/-- The alignment wait (R119): the clock, then the wait, and only the environment, the trace and the phase change. -/
theorem alignWait_shows (s : State) :
    alignWait s =
      { s with
        env := (alignWait s).env
        trace := (alignWait s).trace
        sampler := { s.sampler with phase := .idle } } ∧
    Moves [.now s.env.clockAnswer, .wait (.align (wakeDelay s.cfg.period s.env.clockAnswer))] s (alignWait s) :=
  ⟨rfl, (((now_moves (s.setPhase .align)).after s rfl rfl rfl).trans (wait_moves _ _)).andThen (alignWait s) rfl rfl rfl⟩

/-- The end of a cycle whose batch is complete: what it shows and changes (R116, R118, R119). -/
theorem finishCycle_complete (s : State) (h : s.sampler.batch.length = s.cfg.nSamples) :
    ∃ t, finishCycle s = .done (some (sampleOf s.sampler.batch s.env.clockAnswer)) t ∧
      t = { s with env := t.env, trace := t.trace, sampler := { s.sampler with phase := .idle } } ∧
      Moves [.now s.env.clockAnswer,
        .publish (round2 (sampleOf s.sampler.batch s.env.clockAnswer).pm10)
          (round2 (sampleOf s.sampler.batch s.env.clockAnswer).pm25),
        .now s.env.clockRead.clockAnswer,
        .wait (.align (wakeDelay s.cfg.period s.env.clockRead.clockAnswer))] s t := by
  refine ⟨alignWait (report s), by rw [finishCycle, if_pos h]; rfl, by rw [(alignWait_shows (report s)).1]; rfl, ?_⟩
  have m1 : Moves ([.now s.env.clockAnswer] ++ [.publish (round2 (aggregate s).pm10) (round2 (aggregate s).pm25)]) s
      (report s) :=
    ((now_moves (s.setPhase .report)).after s rfl rfl rfl).trans (publish_moves _ _ _)
  refine (m1.trans (alignWait_shows (report s)).2).cast ?_
  simp [report, publish_eq, now_eq, aggregate, sampleOf, Env.clockAnswer]

/-- The end of a cycle whose batch is not complete: what it shows and changes (R116, R119). -/
theorem finishCycle_incomplete (s : State) (h : s.sampler.batch.length ≠ s.cfg.nSamples) :
    ∃ t, finishCycle s = .done none t ∧
      t = { s with env := t.env, trace := t.trace, sampler := { s.sampler with phase := .idle } } ∧
      Moves [.now s.env.clockAnswer, .wait (.align (wakeDelay s.cfg.period s.env.clockAnswer))] s t :=
  ⟨alignWait s, by rw [finishCycle, if_neg h], (alignWait_shows s).1, (alignWait_shows s).2⟩

/-- What a cycle shows and leaves, given what its commands and rounds showed. -/
structure Cycled (e1 e2 er e3 : List Event) (r1 r2 r3 : Except FailCode ResponseFrame) (ms : List Measurement)
    (aborted : Bool) (s t : State) : Prop where
  first : Reception s.cfg e1 r1
  second : Reception s.cfg e2 r2
  rounds : Rounds s.cfg s.cfg.nSamples er ms aborted
  last : Reception s.cfg e3 r3
  cfg : t.cfg = s.cfg
  requests : t.requests = s.requests
  output : t.output = s.output
  txFrame : t.txFrame = commandFrame s.cfg .sleep s.cfg.plSleep
  txWidth : s.txFrame.length = cmdLen → t.txFrame.length = cmdLen
  rxWidth : s.rxFrame.length = rspLen → t.rxFrame.length = rspLen
  rxPhase : s.rx.phase = .idle → t.rx.phase = .idle
  rxCount : s.rx.rxCount ≤ 9 → t.rx.rxCount ≤ 9
  session : t.session = sessionAfterCycle s.session (echoOk s.cfg (frameOf r1) .sleep)
    (echoOk s.cfg (frameOf r2) .modeSet) (echoOk s.cfg (frameOf r3) .sleep)
  sampler : t.sampler = ⟨ms, ms.length + (if aborted then 1 else 0), if aborted then 1 else 0, .idle⟩
  moves : Moves ([.write (commandFrame s.cfg .sleep s.cfg.plWake)] ++ e1 ++
    [.wait .settle, .write (commandFrame s.cfg .modeSet s.cfg.plModeQuery)] ++ e2 ++ er ++
    [.write (commandFrame s.cfg .sleep s.cfg.plSleep)] ++ e3 ++
    (if aborted then
      [.now s.env.clockAnswer, .wait (.align (wakeDelay s.cfg.period s.env.clockAnswer))]
    else
      [.now s.env.clockAnswer,
        .publish (round2 (sampleOf ms s.env.clockAnswer).pm10) (round2 (sampleOf ms s.env.clockAnswer).pm25),
        .now s.env.clockRead.clockAnswer,
        .wait (.align (wakeDelay s.cfg.period s.env.clockRead.clockAnswer))])) s t

theorem sessionAfterCycle_eq (x : Session) (a b c : Bool) :
    sessionAfterSleep (sessionAfterMode (sessionAfterSleep x a (some false)) b (some false)) c (some true) =
      sessionAfterCycle x a b c := by
  cases a <;> cases b <;> cases c <;> simp [sessionAfterSleep, sessionAfterMode, sessionAfterCycle]

/-- A cycle that returns (R110). -/
theorem cycle_shows {s t : State} {a : Option AggregatedSample} (h : cycle s = .done a t) :
    ∃ e1 e2 er e3 r1 r2 r3 ms aborted, Cycled e1 e2 er e3 r1 r2 r3 ms aborted s t ∧
      a = (if aborted then none else some (sampleOf ms s.env.clockAnswer)) := by
  obtain ⟨_, s1, h1, h⟩ := Run.andThen_done h
  obtain ⟨_, s2, h2, h⟩ := Run.andThen_done h
  obtain ⟨_, s3, h3, h⟩ := Run.andThen_done h
  obtain ⟨e1, r1, e2, r2, hr1, hr2, k1, b1, x1, t1⟩ := wakeAndMode_shows h1
  obtain ⟨er, ms, ab, hro, k2, b2, n2, c2, x2, t2⟩ := runRounds_shows _ h2
  obtain ⟨e3, r3, hr3, k3, b3, x3, f3, t3⟩ := backToSleep_shows h3
  have k0 : Keeps s (beginCycle s) := keeps_of_sampler s _
  have c1' : s1.cfg = s.cfg := k1.cfg
  have c2' : s2.cfg = s.cfg := k2.cfg.trans c1'
  have c3' : s3.cfg = s.cfg := k3.cfg.trans c2'
  have kk : Keeps s s3 := ((k0.trans k1).trans k2).trans k3
  rw [c1'] at hro
  rw [c2'] at hr3 x3 t3 f3
  have hbc : (beginCycle s).cfg = s.cfg := rfl
  rw [hbc] at hr1 hr2 x1 t1
  have hbs : (beginCycle s).session = s.session := rfl
  have hb : s3.sampler.batch = ms := by rw [b3]; simp [b2, b1, beginCycle]
  have hn : s3.sampler.round = ms.length + (if ab then 1 else 0) := by rw [b3]; simp [n2, b1, beginCycle]
  have hcnt : s3.sampler.recoveryCount = (if ab then 1 else 0) := by rw [b3]; simp [c2, b1, beginCycle]
  have hclk : s3.env.clockAnswer = s.env.clockAnswer := by simp [Env.clockAnswer, kk.clock, kk.clockEnd]
  have hclk2 : s3.env.clockRead.clockAnswer = s.env.clockRead.clockAnswer := by
    simp [Env.clockAnswer, kk.clock, kk.clockEnd]
  have hses : s3.session = sessionAfterCycle s.session (echoOk s.cfg (frameOf r1) .sleep)
      (echoOk s.cfg (frameOf r2) .modeSet) (echoOk s.cfg (frameOf r3) .sleep) := by
    rw [x3, x2, x1, hbs, sessionAfterCycle_eq]
  have htr : Moves ([.write (commandFrame s.cfg .sleep s.cfg.plWake)] ++ e1 ++
      [.wait .settle, .write (commandFrame s.cfg .modeSet s.cfg.plModeQuery)] ++ e2 ++ er ++
      [.write (commandFrame s.cfg .sleep s.cfg.plSleep)] ++ e3) s s3 :=
    (((t1.after s rfl rfl rfl).trans t2).trans t3).cast (by simp)
  have hsam : ({ s3.sampler with phase := .idle } : Sampler) =
      ⟨ms, ms.length + (if ab then 1 else 0), if ab then 1 else 0, .idle⟩ := by
    simp [hb, hn, hcnt]
  cases ab with
  | false =>
    have hlen : s3.sampler.batch.length = s3.cfg.nSamples := by rw [hb, c3']; exact hro.count.1 rfl
    obtain ⟨u, he, hu, hm⟩ := finishCycle_complete s3 hlen
    rw [he, hb, hclk] at h
    simp only [Run.done.injEq] at h
    obtain ⟨rfl, rfl⟩ := h
    rw [hb, hclk, hclk2, c3'] at hm
    refine ⟨e1, e2, er, e3, r1, r2, r3, ms, false, ⟨hr1, hr2, hro, hr3, ?_, ?_, ?_, ?_, ?_, ?_, ?_, ?_, ?_, ?_,
      (htr.trans hm).cast (by simp)⟩, by simp⟩
    all_goals rw [hu]
    exacts [c3', kk.requests, kk.output, f3, kk.txFrame, kk.rxFrame, kk.rxPhase, kk.rxCount, hses, hsam]
  | true =>
    have hlen : s3.sampler.batch.length ≠ s3.cfg.nSamples := by
      rw [hb, c3']; exact Nat.ne_of_lt (hro.count.2 rfl)
    obtain ⟨u, he, hu, hm⟩ := finishCycle_incomplete s3 hlen
    rw [he] at h
    simp only [Run.done.injEq] at h
    obtain ⟨rfl, rfl⟩ := h
    rw [hclk, c3'] at hm
    refine ⟨e1, e2, er, e3, r1, r2, r3, ms, true, ⟨hr1, hr2, hro, hr3, ?_, ?_, ?_, ?_, ?_, ?_, ?_, ?_, ?_, ?_,
      (htr.trans hm).cast (by simp)⟩, by simp⟩
    all_goals rw [hu]
    exacts [c3', kk.requests, kk.output, f3, kk.txFrame, kk.rxFrame, kk.rxPhase, kk.rxCount, hses, hsam]

/-- A cycle returns where every scan ends, and otherwise returns or never ends: it has no other outcome. -/
theorem cycle_outcomes (s : State) (hc : ConfigLegal s) :
    (∃ a t, cycle s = .done a t) ∨ (cycle s = .fault .scanNeverEnds ∧ ¬ LineSettles s) := by
  have k0 : Keeps s (beginCycle s) := keeps_of_sampler s _
  rcases (wakeAndMode_outcomes (beginCycle s) (k0.legal hc)).of_keeps k0 with ⟨_, s1, h1, k1⟩ | ⟨hf, hl⟩
  · rcases (runRounds_outcomes s1.cfg.nSamples s1 (k1.legal hc)).of_keeps k1 with ⟨_, s2, h2, k2⟩ | ⟨hf, hl⟩
    · rcases (backToSleep_outcomes s2 (k2.legal hc)).of_keeps k2 with ⟨_, s3, h3, _⟩ | ⟨hf, hl⟩
      · left
        by_cases h : s3.sampler.batch.length = s3.cfg.nSamples
        · obtain ⟨t, ht, _⟩ := finishCycle_complete s3 h
          exact ⟨_, t, by simp only [cycle, h1, h2, h3, Run.andThen_done_eq]; exact ht⟩
        · obtain ⟨t, ht, _⟩ := finishCycle_incomplete s3 h
          exact ⟨_, t, by simp only [cycle, h1, h2, h3, Run.andThen_done_eq]; exact ht⟩
      · exact .inr ⟨by simp only [cycle, h1, h2, hf, Run.andThen_done_eq]; rfl, hl⟩
    · exact .inr ⟨by simp only [cycle, h1, hf, Run.andThen_done_eq]; rfl, hl⟩
  · exact .inr ⟨by simp only [cycle, hf]; rfl, hl⟩

end Sys2Proof.Machine
end

