-- ==== Sys2Proof/Tests/Slice0.lean ====
section
/-! SUPPORT. The model's own tests. Words are written out from the encoding tables of spec/30_encoding.md (frames:
R55, R58; host codes: R67; operand forms: log entry 5); expected results are the worked vectors of
spec/95_test_vectors.md, named V<n>, S<n> and P<n> as there. -/

namespace Sys2Proof.Tests

open Sys2Proof.Machine

/-! ### Helpers -/

/-- The input queue of the reference transport (R47): `rxq` waits, nothing else arrives. -/
def withRx (rxq : List Byte) : State := State.resetIn Cfg.default { Env.quiet with inBuf := rxq }

/-- As `withRx`, with another CFG. -/
def withRxCfg (cfg : Cfg) (rxq : List Byte) : State := State.resetIn cfg { Env.quiet with inBuf := rxq }

/-- Does the outcome give a next state of which `p` holds? -/
def nextHas (o : Host.Outcome State Fault Refusal) (p : State → Bool) : Bool :=
  match o with
  | .next t => p t
  | .fault _ => false
  | .refused _ => false

/-- Does a word decode to this instruction? -/
def decodesTo (word : List Byte) (i : Instr) : Bool := decide (decode word = .ok i)

/-- The output port shows this. -/
def shows (v : Value) (c : FailCode) (t : State) : Bool := decide (t.output = some ⟨v, c⟩)

def eWake : List Byte := [0xAA, 0xC5, 0x06, 0x01, 0x01, 0x00, 0xA1, 0x60, 0x09, 0xAB]
def eSleep : List Byte := [0xAA, 0xC5, 0x06, 0x01, 0x00, 0x00, 0xA1, 0x60, 0x08, 0xAB]
def eModeQ : List Byte := [0xAA, 0xC5, 0x02, 0x01, 0x01, 0x00, 0xA1, 0x60, 0x05, 0xAB]
def eModeA : List Byte := [0xAA, 0xC5, 0x02, 0x01, 0x00, 0x00, 0xA1, 0x60, 0x04, 0xAB]
def eWp5 : List Byte := [0xAA, 0xC5, 0x08, 0x01, 0x05, 0x00, 0xA1, 0x60, 0x0F, 0xAB]
def eFw : List Byte := [0xAA, 0xC5, 0x07, 0x12, 0x0B, 0x10, 0xA1, 0x60, 0x35, 0xAB]
def eId : List Byte := [0xAA, 0xC5, 0x05, 0x00, 0x00, 0x00, 0xA1, 0x60, 0x06, 0xAB]
def r105 : List Byte := [0xAA, 0xC0, 0x64, 0x00, 0x32, 0x00, 0xA1, 0x60, 0x97, 0xAB]
/-- R_10_5 with its checksum off by one (V14, V35). -/
def rBad : List Byte := [0xAA, 0xC0, 0x64, 0x00, 0x32, 0x00, 0xA1, 0x60, 0x98, 0xAB]
/-- V1's frame. -/
def queryFrame : List Byte := [0xAA, 0xB4, 4, 0, 0, 0, 0, 0, 0, 0, 0, 0, 0, 0, 0, 0xFF, 0xFF, 0x02, 0xAB]
/-- V2's frame. -/
def modeQFrame : List Byte := [0xAA, 0xB4, 2, 1, 1, 0, 0, 0, 0, 0, 0, 0, 0, 0, 0, 0xFF, 0xFF, 0x02, 0xAB]
/-- V3's frame. -/
def modeAFrame : List Byte := [0xAA, 0xB4, 2, 1, 0, 0, 0, 0, 0, 0, 0, 0, 0, 0, 0, 0xFF, 0xFF, 0x01, 0xAB]
/-- V4's frame. -/
def sleepFrame : List Byte := [0xAA, 0xB4, 6, 1, 0, 0, 0, 0, 0, 0, 0, 0, 0, 0, 0, 0xFF, 0xFF, 0x05, 0xAB]
/-- V5's frame. -/
def wakeFrame : List Byte := [0xAA, 0xB4, 6, 1, 1, 0, 0, 0, 0, 0, 0, 0, 0, 0, 0, 0xFF, 0xFF, 0x06, 0xAB]
/-- V6's frame. -/
def fwFrame : List Byte := [0xAA, 0xB4, 7, 0, 0, 0, 0, 0, 0, 0, 0, 0, 0, 0, 0, 0xFF, 0xFF, 0x05, 0xAB]
/-- V7's frame. -/
def wp5Frame : List Byte := [0xAA, 0xB4, 8, 1, 5, 0, 0, 0, 0, 0, 0, 0, 0, 0, 0, 0xFF, 0xFF, 0x0C, 0xAB]
/-- V8's frame. -/
def idFrame : List Byte := [0xAA, 0xB4, 5, 0, 0, 0, 0, 0, 0, 0, 0, 0, 0, 0xA1, 0x60, 0xFF, 0xFF, 0x04, 0xAB]

/-! ### Well-formedness refuses -/

theorem test_wf_short_payload : (Instr.cmdModeSet ⟨[1, 1], 0xFF, 0xFF, 0x02⟩).wellFormed = false := by decide
theorem test_wf_long_payload :
    (Instr.cmdQueryData ⟨List.replicate 13 0, 0xFF, 0xFF, 0x02⟩).wellFormed = false := by decide
theorem test_wf_frame_checksum :
    (Instr.decodeMeasurement ⟨0xC0, 0x64, 0, 0x32, 0, 0xA1, 0x60, 0x98, 0xAB⟩).wellFormed = false := by decide
theorem test_wf_frame_tail :
    (Instr.decodeMeasurement ⟨0xC0, 0x64, 0, 0x32, 0, 0xA1, 0x60, 0x97, 0xAC⟩).wellFormed = false := by decide
theorem test_wf_empty_median : (Instr.median []).wellFormed = false := by decide
theorem test_wf_negative_time : (Instr.nextWakeDelay (-1)).wellFormed = false := by decide

/-! ### Decoding: one word per constructor, written out from the encoding -/

theorem test_decode_cmdModeSet :
    decodesTo modeQFrame (.cmdModeSet ⟨[1, 1, 0, 0, 0, 0, 0, 0, 0, 0, 0, 0], 0xFF, 0xFF, 0x02⟩) = true := by decide
theorem test_decode_cmdQueryData :
    decodesTo queryFrame (.cmdQueryData ⟨[0, 0, 0, 0, 0, 0, 0, 0, 0, 0, 0, 0], 0xFF, 0xFF, 0x02⟩) = true := by decide
theorem test_decode_cmdDeviceId :
    decodesTo idFrame (.cmdDeviceId ⟨[0, 0, 0, 0, 0, 0, 0, 0, 0, 0, 0xA1, 0x60], 0xFF, 0xFF, 0x04⟩) = true := by decide
theorem test_decode_cmdSleep :
    decodesTo sleepFrame (.cmdSleep ⟨[1, 0, 0, 0, 0, 0, 0, 0, 0, 0, 0, 0], 0xFF, 0xFF, 0x05⟩) = true := by decide
theorem test_decode_cmdFirmware :
    decodesTo fwFrame (.cmdFirmware ⟨[0, 0, 0, 0, 0, 0, 0, 0, 0, 0, 0, 0], 0xFF, 0xFF, 0x05⟩) = true := by decide
theorem test_decode_cmdWorkingPeriod :
    decodesTo wp5Frame (.cmdWorkingPeriod ⟨[1, 5, 0, 0, 0, 0, 0, 0, 0, 0, 0, 0], 0xFF, 0xFF, 0x0C⟩) = true := by decide
theorem test_decode_dataReport :
    decodesTo r105 (.dataReport ⟨0x64, 0x00, 0x32, 0x00, 0xA1, 0x60, 0x97⟩) = true := by decide
theorem test_decode_commandEcho :
    decodesTo eModeQ (.commandEcho ⟨0x02, 0x01, 0x01, 0x00, 0xA1, 0x60, 0x05⟩) = true := by decide
theorem test_decode_encodeCommand :
    decodesTo [0x00, 0x03, 0x01, 0x01, 0x01, 0x00, 0x00] (.encodeCommand .sleep [0x01, 0x00]) = true := by decide
theorem test_decode_decodeResponse :
    decodesTo [0x01, 0x01, 0xC0, 0x01, 0x64, 0x00] (.decodeResponse [0xC0, 0x64]) = true := by decide
theorem test_decode_decodeMeasurement :
    decodesTo [0x02, 0xC0, 0x64, 0x00, 0x32, 0x00, 0xA1, 0x60]
      (.decodeMeasurement ⟨0xC0, 0x64, 0x00, 0x32, 0x00, 0xA1, 0x60, 0x97, 0xAB⟩) = true := by decide
theorem test_decode_receiveFrame : decodesTo [0x03] .receiveFrame = true := by decide
theorem test_decode_setReportMode : decodesTo [0x04, 0x01] (.setReportMode true) = true := by decide
theorem test_decode_setSleep : decodesTo [0x05, 0x00] (.setSleep false) = true := by decide
theorem test_decode_query : decodesTo [0x06] .query = true := by decide
theorem test_decode_setWorkingPeriod : decodesTo [0x07, 0x05] (.setWorkingPeriod 0x05) = true := by decide
theorem test_decode_readFirmware : decodesTo [0x08] .readFirmware = true := by decide
theorem test_decode_deviceId : decodesTo [0x09, 0x00, 0xA1, 0x60] (.deviceId 2 #v[0xA1, 0x60]) = true := by decide
/-- An argument of another length: the list form. -/
theorem test_decode_deviceId_list :
    decodesTo [0x09, 0x01, 0x01, 0x11, 0x01, 0x22, 0x01, 0x33, 0x00] (.deviceId 3 #v[0x11, 0x22, 0x33]) = true := by decide
theorem test_decode_resynchronize : decodesTo [0x0A] .resynchronize = true := by decide
theorem test_decode_runCycle : decodesTo [0x0B] .runCycle = true := by decide
theorem test_decode_median :
    decodesTo [0x0C, 0x64, 0x00, 0x01, 0x2C, 0x01, 0x00] (.median [100, 300]) = true := by decide
/-- 2001 = 0x7D1, over 1 + 1. -/
theorem test_decode_nextWakeDelay :
    decodesTo [0x0D, 0x01, 0xD1, 0x01, 0x07, 0x00, 0x01, 0x01, 0x00] (.nextWakeDelay (mkRat 2001 2)) = true := by
  decide +kernel

/-! ### Decoding refuses by name (R63, R68, R69) -/

theorem test_decode_code_E : decode [0x0E] = .error (.unassignedCode 0x0E) := by decide
theorem test_decode_code_F : decode [0x0F, 0x00] = .error (.unassignedCode 0x0F) := by decide
theorem test_decode_no_request : decode [0x10] = .error (.notARequest 0x10) := by decide
theorem test_decode_command_id_3 :
    decode [0xAA, 0xB4, 3, 0, 0, 0, 0, 0, 0, 0, 0, 0, 0, 0, 0, 0xFF, 0xFF, 0x01, 0xAB] = .error .badFrame := by decide
theorem test_decode_wrong_tail :
    decode [0xAA, 0xC0, 0x64, 0x00, 0x32, 0x00, 0xA1, 0x60, 0x97, 0xAC] = .error .badFrame := by decide
theorem test_decode_trailing : decode [0x06, 0x00, 0x01] = .error .trailingBytes := by decide
theorem test_decode_operand_id : decode [0x00, 0x06, 0x00] = .error (.badCommandId 0x06) := by decide

/-- A table word is numbered from the least significant bit of its first byte: DATA_REPORT's row. -/
theorem test_table_word_dataReport :
    decodeTableWord 80 0xAB00000000000000C0AA = some (.dataReport ⟨0, 0, 0, 0, 0, 0, 0⟩) := by decide
theorem test_table_word_median : decodeTableWord 8 0x0C = some (.median [0]) := by decide

/-! ### The Frame Codec -/

/-- V9: twelve FF, the sum wraps. -/
theorem test_encode_wraps :
    nextHas (exec (.encodeCommand .queryData (List.replicate 12 0xFF)) State.reset)
      (shows (.command ([0xAA, 0xB4, 4] ++ List.replicate 12 0xFF ++ [0xFF, 0xFF, 0xF6, 0xAB])) .ok) = true := by
  decide +kernel
/-- V11. -/
theorem test_encode_thirteen :
    nextHas (exec (.encodeCommand .queryData (List.replicate 13 0)) State.reset)
      (fun t => shows .failed .constructionError t && decide (t.txFrame = State.reset.txFrame)) = true := by decide
/-- V16: both wrong, the checksum is reported. -/
theorem test_decode_response_both_wrong :
    nextHas (exec (.decodeResponse [0xC0, 0x64, 0, 0x32, 0, 0xA1, 0x60, 0x98, 0]) State.reset)
      (shows .failed .badChecksum) = true := by decide
/-- V19c: bytes after the ninth are ignored. -/
theorem test_decode_response_long :
    nextHas (exec (.decodeResponse [0xC0, 0x64, 0, 0x32, 0, 0xA1, 0x60, 0x97, 0xAB, 0x55, 0x66]) State.reset)
      (shows (.response ⟨0xC0, 0x64, 0, 0x32, 0, 0xA1, 0x60, 0x97, 0xAB⟩) .ok) = true := by decide
/-- V21: 0x04D4 and 0x0A3A. -/
theorem test_decode_measurement :
    nextHas (exec (.decodeMeasurement (sealedFrame 0xC0 0xD4 0x04 0x3A 0x0A 0xA1 0x60)) State.reset)
      (shows (.measurement ⟨1236, 2618⟩) .ok) = true := by decide
/-- V24. -/
theorem test_decode_measurement_echo :
    nextHas (exec (.decodeMeasurement (sealedFrame 0xC5 0x06 0x01 0x01 0x00 0xA1 0x60)) State.reset)
      (shows .failed .notDataReport) = true := by decide

/-! ### The Device Session -/

/-- V30, S8: noise before a frame. -/
theorem test_receive_noise :
    nextHas (exec .receiveFrame (withRx ([0x11, 0x22] ++ r105)))
      (fun t => shows (.received (some ⟨0xC0, 0x64, 0, 0x32, 0, 0xA1, 0x60, 0x97, 0xAB⟩)) .ok t &&
        decide (t.trace = [.read 1 [0x11], .read 1 [0x22], .read 1 [0xAA], .read 9 r105.tail])) = true := by decide
/-- V37: SCAN_MAX = Some 1, the second noise byte ends the scan and the frame stays queued. -/
theorem test_receive_scan_max :
    nextHas (exec .receiveFrame (withRxCfg { Cfg.default with scanMax := some 1 } ([0x11, 0x22] ++ r105)))
      (fun t => shows (.received none) .noHeader t && decide (t.env.inBuf = r105)) = true := by decide
/-- V53. -/
theorem test_set_report_mode :
    nextHas (exec (.setReportMode true) (withRx eModeA))
      (fun t => shows (.flag true) .ok t && decide (t.session = ⟨true, some .modeActive, none⟩) &&
        decide (t.trace.head? = some (.write modeAFrame))) = true := by decide +kernel
/-- V55: a data report where an echo is awaited. -/
theorem test_set_report_mode_report :
    nextHas (exec (.setReportMode false) (withRx r105))
      (fun t => shows (.flag false) .echoInvalid t && decide (t.session = Session.reset) &&
        decide (t.env.inBuf = [])) = true := by decide +kernel
/-- V50. -/
theorem test_set_sleep_wake :
    nextHas (exec (.setSleep false) (withRx eWake))
      (fun t => shows (.flag true) .ok t && decide (t.session.power = some .work) &&
        decide (t.trace.head? = some (.write wakeFrame))) = true := by decide +kernel
/-- V57: a stale echo with ECHO_ID_CHECK. -/
theorem test_set_sleep_stale :
    nextHas (exec (.setSleep false) (withRxCfg { Cfg.default with echoIdCheck := true } eModeQ))
      (fun t => shows (.flag false) .echoInvalid t && decide (t.session.power = none)) = true := by decide +kernel
/-- V58. -/
theorem test_query :
    nextHas (exec .query (withRx r105))
      (fun t => shows (.queried (some ⟨100, 50⟩)) .ok t &&
        decide (t.trace = [.write queryFrame, .read 1 [0xAA], .read 9 r105.tail])) = true := by decide +kernel
/-- V60. -/
theorem test_query_bad_checksum :
    nextHas (exec .query (withRx rBad)) (shows (.queried none) .badChecksum) = true := by decide +kernel
/-- V61. -/
theorem test_set_working_period :
    nextHas (exec (.setWorkingPeriod 5) (withRx eWp5))
      (fun t => shows (.received (some ⟨0xC5, 8, 1, 5, 0, 0xA1, 0x60, 0x0F, 0xAB⟩)) .ok t &&
        decide (t.trace.head? = some (.write wp5Frame))) = true := by decide +kernel
/-- V62. -/
theorem test_read_firmware :
    nextHas (exec .readFirmware (withRx eFw))
      (fun t => shows (.received (some ⟨0xC5, 7, 0x12, 0x0B, 0x10, 0xA1, 0x60, 0x35, 0xAB⟩)) .ok t &&
        decide (t.trace.head? = some (.write fwFrame))) = true := by decide +kernel
/-- V63. -/
theorem test_device_id :
    nextHas (exec (.deviceId 2 #v[0xA1, 0x60]) (withRx eId))
      (fun t => shows (.received (some ⟨0xC5, 5, 0, 0, 0, 0xA1, 0x60, 0x06, 0xAB⟩)) .ok t &&
        decide (t.trace.head? = some (.write idFrame))) = true := by decide +kernel
/-- V64. -/
theorem test_resynchronize :
    nextHas (exec .resynchronize (withRx [0x13, 0x37, 0xAA]))
      (fun t => shows .nothing .ok t && decide (t.trace = [.resetIn, .resetOut, .reopen]) &&
        decide (t.env.inBuf = [])) = true := by decide
/-- The line is noise for ever and there is no bound: the scan never ends (U17). -/
theorem test_receive_endless :
    exec .receiveFrame (State.resetIn Cfg.default { Env.quiet with lineEnd := .noise 0x55 }) =
      .fault .scanNeverEnds := by rfl

/-! ### The frame rows -/

/-- V52's command as a frame. -/
theorem test_frame_mode_query :
    nextHas (exec (.cmdModeSet ⟨pad12 [1, 1], 0xFF, 0xFF, 0x02⟩) (withRx eModeQ))
      (fun t => decide (t.session = ⟨true, some .modeQuery, none⟩) &&
        decide (t.trace.head? = some (.write modeQFrame))) = true := by decide +kernel
/-- V13 and V20 on a frame. -/
theorem test_frame_data_report :
    nextHas (exec (.dataReport ⟨0x64, 0x00, 0x32, 0x00, 0xA1, 0x60, 0x97⟩) State.reset)
      (shows (.measurement ⟨100, 50⟩) .ok) = true := by decide
/-- E_MODEQ is a valid echo for every command, and with ECHO_ID_CHECK for mode-set alone (V56, V57). -/
theorem test_frame_command_echo :
    nextHas (exec (.commandEcho ⟨0x02, 0x01, 0x01, 0x00, 0xA1, 0x60, 0x05⟩)
        (withRxCfg { Cfg.default with echoIdCheck := true } []))
      (shows (.echoFor [.modeSet]) .ok) = true := by decide

/-! ### The Sampler -/

/-- V46: the outlier does not move the median. -/
theorem test_median_even :
    nextHas (exec (.median [120, 118, 125, 130, 119, 121, 122, 117, 300, 123]) State.reset)
      (shows (.rational (243 / 2)) .ok) = true := by decide +kernel
/-- V42. -/
theorem test_median_odd :
    nextHas (exec (.median [3, 1, 2]) State.reset) (shows (.rational 2) .ok) = true := by decide +kernel
/-- V71: a full period, not 0. -/
theorem test_next_wake_delay_multiple :
    nextHas (exec (.nextWakeDelay 900) State.reset) (shows (.rational 300) .ok) = true := by decide +kernel
/-- V76. -/
theorem test_next_wake_delay_rational :
    nextHas (exec (.nextWakeDelay (2001 / 2)) State.reset) (shows (.rational (399 / 2)) .ok) = true := by
  decide +kernel

/-- The ten reports of program P2. -/
def p2Reports : List (List Byte) :=
  [[0xAA, 0xC0, 0x78, 0x00, 0xC8, 0x00, 0xA1, 0x60, 0x41, 0xAB],
   [0xAA, 0xC0, 0x76, 0x00, 0xD2, 0x00, 0xA1, 0x60, 0x49, 0xAB],
   [0xAA, 0xC0, 0x7D, 0x00, 0xBE, 0x00, 0xA1, 0x60, 0x3C, 0xAB],
   [0xAA, 0xC0, 0x82, 0x00, 0xCD, 0x00, 0xA1, 0x60, 0x50, 0xAB],
   [0xAA, 0xC0, 0x77, 0x00, 0xD7, 0x00, 0xA1, 0x60, 0x4F, 0xAB],
   [0xAA, 0xC0, 0x79, 0x00, 0xC6, 0x00, 0xA1, 0x60, 0x40, 0xAB],
   [0xAA, 0xC0, 0x7A, 0x00, 0xCA, 0x00, 0xA1, 0x60, 0x45, 0xAB],
   [0xAA, 0xC0, 0x75, 0x00, 0xCF, 0x00, 0xA1, 0x60, 0x45, 0xAB],
   [0xAA, 0xC0, 0x2C, 0x01, 0xF4, 0x01, 0xA1, 0x60, 0x23, 0xAB],
   [0xAA, 0xC0, 0x7B, 0x00, 0xC9, 0x00, 0xA1, 0x60, 0x45, 0xAB]]

/-- P2's sensor and clock. -/
def p2State : State :=
  State.resetIn Cfg.default
    { Env.quiet with inBuf := eWake ++ eModeQ ++ p2Reports.flatten ++ eSleep, clock := [⟨1000, by decide +kernel⟩, ⟨1001, by decide +kernel⟩] }

/-- The events of one good round of P2. -/
def p2Round (frame : List Byte) : List Event :=
  [.wait .interSample, .write queryFrame, .read 1 [0xAA], .read 9 frame.tail]

/-- The events of step 1 of P2. -/
def p2Start : List Event :=
  [.write wakeFrame, .read 1 [0xAA], .read 9 eWake.tail, .wait .settle,
   .write modeQFrame, .read 1 [0xAA], .read 9 eModeQ.tail]

/-- P2, S7: the whole trace of a complete cycle, its result and its end state. -/
theorem test_run_cycle_complete :
    nextHas (exec .runCycle p2State)
      (fun t => shows (.cycle (some ⟨243 / 20, 407 / 20, 1000⟩)) .ok t &&
        decide (t.trace = p2Start ++ (p2Reports.map p2Round).flatten ++
          [.write sleepFrame, .read 1 [0xAA], .read 9 eSleep.tail, .now 1000, .publish (407 / 20) (243 / 20),
           .now 1001, .wait (.align 199)]) &&
        decide (t.session = ⟨true, some .modeQuery, some .sleep⟩) &&
        decide (t.sampler.batch.length = 10 ∧ t.sampler.round = 10 ∧ t.sampler.recoveryCount = 0 ∧
          t.sampler.phase = .idle)) = true := by
  decide +kernel

/-- P3's sensor: seven reports, then nothing until the sleep command after the reopen is answered. -/
def p3State : State :=
  State.resetIn Cfg.default
    { Env.quiet with
      inBuf := eWake ++ eModeQ ++ (p2Reports.take 7).flatten
      line := List.replicate 43 ⟨0, [], none⟩ ++ [⟨0, eSleep, none⟩]
      clock := [⟨1234, by decide +kernel⟩] }

/-- P3, S6: a cycle aborted in round 8. -/
theorem test_run_cycle_aborted :
    nextHas (exec .runCycle p3State)
      (fun t => shows (.cycle none) .incompleteBatch t &&
        decide (t.trace = p2Start ++ ((p2Reports.take 7).map p2Round).flatten ++
          [.wait .interSample, .write queryFrame, .read 1 [], .wait .recovery, .resetIn, .resetOut, .reopen,
           .write sleepFrame, .read 1 [0xAA], .read 9 eSleep.tail, .now 1234, .wait (.align 266)]) &&
        decide (t.session = ⟨true, some .modeQuery, some .sleep⟩) &&
        decide (t.sampler.batch.length = 7 ∧ t.sampler.round = 8 ∧ t.sampler.recoveryCount = 1)) = true := by
  decide +kernel

/-! ### The step -/

/-- The host's request is fetched and run; the first after reset times out on the quiet line. -/
theorem test_step_first_request :
    nextHas (step (State.reset.withFetchWord 8 0x6)) (shows (.queried none) .noHeader) = true := by decide +kernel
/-- An idle engine waits. -/
theorem test_step_idle : nextHas (step State.reset) (fun t => decide (t = State.reset)) = true := by decide +kernel

/-- The 22 rows as numbers: the bytes of R69's `match` in wire order, the first byte lowest, with its width in bits;
and the host codes of R67. -/
def tableWords : List (Nat × Nat) :=
  ([2, 4, 5, 6, 7, 8] : List Nat).map (fun id => (152, 0xAA + 0xB4 * 2 ^ 8 + id * 2 ^ 16 + 0xAB * 2 ^ 144)) ++
    ([0xC0, 0xC5] : List Nat).map (fun ty => (80, 0xAA + ty * 2 ^ 8 + 0xAB * 2 ^ 72)) ++
    (List.range 14).map (fun code => (8, code))

/-- Every row, operand bits zero, decodes and runs to a next state as the first request after reset. -/
theorem test_every_row_steps :
    tableWords.all (fun r =>
      (decodeTableWord r.1 r.2).isSome && nextHas (step (State.reset.withFetchWord r.1 r.2)) (fun _ => true)) = true := by
  decide +kernel
/-- DATA_REPORT's hexadecimal string read as one number (log entry 12). -/
theorem test_table_word_wire_order :
    decodeTableWord 80 0xAAC000000000000000AB = some (.dataReport ⟨0, 0, 0, 0, 0, 0, 0⟩) := by decide

/-! ### Witnesses: states and operands that meet the hypotheses of the statements, named after them -/

/-- An outcome that gives a next state with a property. -/
theorem nextHas_next {o : Host.Outcome State Fault Refusal} {p : State → Bool} (h : nextHas o p = true) :
    ∃ t, o = .next t ∧ p t = true := by
  cases o with
  | next t => exact ⟨t, rfl, h⟩
  | fault f => simp [nextHas] at h
  | refused r => simp [nextHas] at h

/-- An outcome that gives a next state. -/
theorem nextHas_some {o : Host.Outcome State Fault Refusal} (h : nextHas o (fun _ => true) = true) :
    ∃ t, o = .next t := by
  obtain ⟨t, ht, _⟩ := nextHas_next h
  exact ⟨t, ht⟩

/-- A CFG with ECHO_ID_CHECK and no noise tolerated. -/
def strictCfg : Cfg := { Cfg.default with echoIdCheck := true, scanMax := some 0 }

theorem legal_reset : ConfigLegal State.reset := by show cfgLegal _ = true; decide +kernel
theorem legal_strict (rxq : List Byte) : ConfigLegal (withRxCfg strictCfg rxq) := by
  show cfgLegal strictCfg = true; decide +kernel
theorem settles_reset : LineSettles State.reset := .inr (.inl rfl)

/-- No bound SCAN_MAX and a line that is noise for ever, with these bytes buffered and these steps before the noise. -/
def noisy (rxq : List Byte) (line : List LineStep) : State :=
  State.resetIn Cfg.default { Env.quiet with inBuf := rxq, line := line, lineEnd := .noise 0x55 }

/-- Every line ends the scan after a write: the quiet one, and endless noise after a header or an empty read. -/
theorem scans_after_write (v : List Byte) :
    ScanEnds State.reset.cfg (State.reset.env.write v) ∧ ScanEnds (noisy r105 []).cfg ((noisy r105 []).env.write v) ∧
      ScanEnds (noisy [0x11] [⟨19, [], none⟩, ⟨0, [], none⟩, ⟨0, [], some 0⟩]).cfg
        ((noisy [0x11] [⟨19, [], none⟩, ⟨0, [], none⟩, ⟨0, [], some 0⟩]).env.write v) :=
  ⟨.inr ⟨0, .inl rfl⟩, .inr ⟨0, .inr rfl⟩, .inr ⟨1, .inl rfl⟩⟩

/-- ECHO_ID_CHECK, one noise byte allowed, and a line that delivers noise, a header and this body step by step while
the engine writes and reads, and is noise for ever after. -/
def arriving (body : List Byte) : State :=
  State.resetIn { Cfg.default with echoIdCheck := true, scanMax := some 1 }
    { Env.quiet with line := [⟨3, [0x11], none⟩, ⟨16, [0xAA], none⟩, ⟨0, body, none⟩], lineEnd := .noise 0x55 }

theorem legal_arriving (body : List Byte) : ConfigLegal (arriving body) := by
  show cfgLegal { Cfg.default with echoIdCheck := true, scanMax := some 1 } = true; decide +kernel

/-- A whole frame waits in the input queue, and not one noise byte is allowed before it. -/
theorem waits_strict (body : List Byte) (h : body.length = 9) : FrameWaits (withRxCfg strictCfg (0xAA :: body)) [] body [] :=
  ⟨rfl, by simp [withRxCfg, State.resetIn, header], ⟨by simp, by simp⟩, h⟩

theorem witness_EncodeCommandBuildsTheFrame :
    (List.replicate 12 (0xFF : Byte)).length ≤ 12 ∧ ([] : List Byte).length ≤ 12 ∧
      12 < (List.replicate 13 (0 : Byte)).length := by decide
theorem witness_CommandChecksumCoversIdPayloadDestination :
    (List.replicate 12 (0xFF : Byte)).length ≤ 12 ∧ State.reset.cfg.dest0 = 0xFF ∧ State.reset.cfg.dest1 = 0xFF := by
  decide
theorem witness_DecodeMeasurementIsLittleEndian :
    (sealedFrame 0xC0 0xFF 0xFF 0 0 0 0).rtype = 0xC0 ∧ (sealedFrame 0xC5 0 0 0 0 0 0).rtype ≠ 0xC0 := by decide
/-- R_10_5 and its neighbour with the checksum off by one. -/
theorem witness_DataReportRowGivesItsMeasurement :
    (0x97 : Byte).toNat = (0x64 + 0x00 + 0x32 + 0x00 + 0xA1 + 0x60) % 256 ∧
      (0x98 : Byte).toNat ≠ (0x64 + 0x00 + 0x32 + 0x00 + 0xA1 + 0x60) % 256 := by decide
theorem witness_CommandEchoRowChecksTheEcho :
    (0x05 : Byte).toNat = (0x02 + 0x01 + 0x01 + 0x00 + 0xA1 + 0x60) % 256 ∧
      (0x06 : Byte).toNat ≠ (0x02 + 0x01 + 0x01 + 0x00 + 0xA1 + 0x60) % 256 := by decide
theorem witness_ReceiveFrameShowsOneReception :
    ScanEnds State.reset.cfg State.reset.env ∧ ScanEnds (withRxCfg strictCfg []).cfg (withRxCfg strictCfg []).env ∧
      ScanEnds (noisy r105 []).cfg (noisy r105 []).env ∧
      ScanEnds (noisy [] [⟨0, [], some 0⟩]).cfg (noisy [] [⟨0, [], some 0⟩]).env :=
  ⟨.inr ⟨0, .inl rfl⟩, .inl rfl, .inr ⟨0, .inr rfl⟩, .inr ⟨0, .inl rfl⟩⟩
/-- Two noise bytes, and SCAN_MAX allows exactly two. -/
theorem witness_ReceiveFrameFindsTheFrameBehindNoise :
    FrameWaits (withRxCfg { Cfg.default with scanMax := some 2 } ([0x11, 0x22] ++ r105 ++ [0x13])) [0x11, 0x22]
      r105.tail [0x13] :=
  ⟨rfl, rfl, ⟨by decide, by intro m h; cases h; decide⟩, rfl⟩
theorem witness_EndlessNoiseNeverReturns :
    (∃ (s : State) (b : Byte), s.cfg.scanMax = none ∧ s.env.line = [] ∧ (∀ x ∈ s.env.inBuf, x ≠ 0xAA) ∧
      s.env.lineEnd = .noise b ∧ b ≠ 0xAA) ∧
      exec .receiveFrame (noisy [] []) = .fault .scanNeverEnds ∧ ScanEnds State.reset.cfg State.reset.env :=
  ⟨⟨noisy [0xAB] [], 0x55, rfl, rfl, by decide, rfl, by decide⟩, test_receive_endless, .inr ⟨0, .inl rfl⟩⟩
/-- SCAN_MAX = Some 0: the first noise byte ends the scan, one that arrives with the read and one already buffered. -/
theorem witness_ScanMaxEndsTheScan :
    (∃ (s : State) (m : Nat) (noise : List Byte) (e : Env), s.cfg.scanMax = some m ∧ noise.length = m + 1 ∧
      (∀ b ∈ noise, b ≠ 0xAA) ∧ Answered s.env (noise.map (fun b => .read 1 [b])) e ∧ s.env.line ≠ []) ∧
    ∃ (s : State) (m : Nat) (noise rest : List Byte), s.cfg.scanMax = some m ∧ s.env.line = [] ∧
      s.env.inBuf = noise ++ rest ∧ noise.length = m + 1 ∧ ∀ b ∈ noise, b ≠ 0xAA :=
  ⟨⟨State.resetIn strictCfg { Env.quiet with line := [⟨0, [0x55], none⟩] }, 0, [0x55], _, rfl, rfl, by decide,
      ⟨rfl, rfl⟩, by decide⟩,
    ⟨withRxCfg strictCfg (0x55 :: r105), 0, [0x55], r105, rfl, rfl, rfl, rfl, by decide⟩⟩
theorem witness_SetReportModeFollowsTheEcho :
    (ConfigLegal State.reset ∧ ScanEnds State.reset.cfg
      (State.reset.env.write (commandFrame State.reset.cfg .modeSet State.reset.cfg.plModeQuery))) ∧
      (ConfigLegal (noisy r105 []) ∧ ScanEnds (noisy r105 []).cfg
        ((noisy r105 []).env.write (commandFrame (noisy r105 []).cfg .modeSet (noisy r105 []).cfg.plModeActive))) :=
  ⟨⟨legal_reset, (scans_after_write _).1⟩, ⟨legal_reset, (scans_after_write _).2.1⟩⟩
/-- Both answers occur: a valid echo, and none. -/
theorem witness_SetReportModeFollowsTheEcho_answers :
    ValidEcho Cfg.default 2 (checkBody eModeQ.tail) ∧ ¬ ValidEcho Cfg.default 2 (checkBody r105.tail) :=
  ⟨⟨_, rfl, rfl, by decide⟩, fun ⟨f, h, ht, _⟩ => by cases h; exact absurd ht (by decide)⟩
theorem witness_SetSleepFollowsTheEcho :
    (ConfigLegal State.reset ∧ ScanEnds State.reset.cfg
      (State.reset.env.write (commandFrame State.reset.cfg .sleep State.reset.cfg.plSleep))) ∧
      (ConfigLegal (noisy r105 []) ∧ ScanEnds (noisy r105 []).cfg
        ((noisy r105 []).env.write (commandFrame (noisy r105 []).cfg .sleep (noisy r105 []).cfg.plWake))) :=
  ⟨⟨legal_reset, (scans_after_write _).1⟩, ⟨legal_reset, (scans_after_write _).2.1⟩⟩
theorem witness_QueryReturnsTheReport :
    (ConfigLegal State.reset ∧ ScanEnds State.reset.cfg
      (State.reset.env.write (commandFrame State.reset.cfg .queryData State.reset.cfg.plQuery))) ∧
      (ConfigLegal (noisy r105 []) ∧ ScanEnds (noisy r105 []).cfg
        ((noisy r105 []).env.write (commandFrame (noisy r105 []).cfg .queryData (noisy r105 []).cfg.plQuery))) :=
  ⟨⟨legal_reset, (scans_after_write _).1⟩, ⟨legal_reset, (scans_after_write _).2.1⟩⟩
/-- Its three answers occur: none, an echo, a data report. -/
theorem witness_QueryReturnsTheReport_answers :
    (∃ t, receive State.reset = .done (.error .noHeader) t) ∧
      (∃ f t, receive (withRx eModeQ) = .done (.ok f) t ∧ f.rtype ≠ 0xC0) ∧
      ∃ f t, receive (withRx r105) = .done (.ok f) t ∧ f.rtype = 0xC0 :=
  ⟨⟨_, rfl⟩, ⟨_, _, rfl, by decide⟩, ⟨_, _, rfl, by decide⟩⟩
theorem witness_RawEchoCommandsReturnTheEcho :
    ConfigLegal State.reset ∧ (∀ v, ScanEnds State.reset.cfg (State.reset.env.write v)) ∧
      (∃ b, Instr.setWorkingPeriod 5 = .setWorkingPeriod b ∧
        ([1, 5] : List Byte) = payloadOf State.reset.cfg.plWorkingPeriod [b]) ∧
      ([] : List Byte) = State.reset.cfg.plFirmware ∧
      ∃ k a, Instr.deviceId 2 #v[0xA1, 0x60] = .deviceId k a ∧ k ∈ State.reset.cfg.plDeviceId.lengths ∧
        ([0, 0, 0, 0, 0, 0, 0, 0, 0, 0, 0xA1, 0x60] : List Byte) = payloadOf State.reset.cfg.plDeviceId a.toList :=
  ⟨legal_reset, fun v => (scans_after_write v).1, ⟨5, rfl, rfl⟩, rfl, ⟨2, #v[0xA1, 0x60], rfl, by decide, rfl⟩⟩
/-- With ECHO_ID_CHECK: a mode-set echo for the first clause, a sleep echo for the second. -/
theorem witness_SetCommandsSucceedOnAWaitingEcho (d0 : Byte) (_ : d0 = 2 ∨ d0 = 6) :
    ConfigLegal (withRxCfg strictCfg (0xAA :: frameBody (sealedFrame 0xC5 d0 1 1 0 0xA1 0x60))) ∧
      FrameWaits (withRxCfg strictCfg (0xAA :: frameBody (sealedFrame 0xC5 d0 1 1 0 0xA1 0x60))) []
        (frameBody (sealedFrame 0xC5 d0 1 1 0 0xA1 0x60)) [] :=
  ⟨legal_strict _, waits_strict _ rfl⟩
theorem witness_QueryAnswersAWaitingReport :
    ConfigLegal (withRxCfg strictCfg (0xAA :: frameBody (sealedFrame 0xC0 0xFF 0xFF 0 0 0 0))) ∧
      FrameWaits (withRxCfg strictCfg (0xAA :: frameBody (sealedFrame 0xC0 0xFF 0xFF 0 0 0 0))) []
        (frameBody (sealedFrame 0xC0 0xFF 0xFF 0 0 0 0)) [] :=
  ⟨legal_strict _, waits_strict _ rfl⟩
/-- With ECHO_ID_CHECK, one state per command; the operands are those of the witness before. -/
theorem witness_RawEchoCommandsAnswerAWaitingEcho (id : CmdId)
    (_ : id = .workingPeriod ∨ id = .firmware ∨ id = .deviceId) :
    ConfigLegal (withRxCfg strictCfg (0xAA :: frameBody (sealedFrame 0xC5 (cmdIdByte id) 1 1 0 0xA1 0x60))) ∧
      FrameWaits (withRxCfg strictCfg (0xAA :: frameBody (sealedFrame 0xC5 (cmdIdByte id) 1 1 0 0xA1 0x60))) []
        (frameBody (sealedFrame 0xC5 (cmdIdByte id) 1 1 0 0xA1 0x60)) [] :=
  ⟨legal_strict _, waits_strict _ rfl⟩
theorem witness_StaleFramesAreTakenAsAnswers (rtype d0 : Byte)
    (_ : (rtype = 0xC1 ∧ d0 = 2) ∨ (rtype = 0xC0 ∧ d0 = 2) ∨ (rtype = 0xC5 ∧ d0 = 1)) :
    ConfigLegal (withRxCfg strictCfg (0xAA :: frameBody (sealedFrame rtype d0 1 0 0 0 0))) ∧
      FrameWaits (withRxCfg strictCfg (0xAA :: frameBody (sealedFrame rtype d0 1 0 0 0 0))) []
        (frameBody (sealedFrame rtype d0 1 0 0 0 0)) [] ∧
      (0xC1 : Byte) ≠ 0xC0 ∧ (0xC5 : Byte) ≠ 0xC0 ∧ (0xC1 : Byte) ≠ 0xC5 ∧ (0xC0 : Byte) ≠ 0xC5 ∧
      strictCfg.echoIdCheck = true ∧ 2 ∈ strictCfg.plDeviceId.lengths ∧ ∀ n ∈ ([2, 6, 8, 7, 5] : List Byte), (1 : Byte) ≠ n :=
  ⟨legal_strict _, waits_strict _ rfl, by decide, by decide, by decide, by decide, rfl, by decide, by decide⟩
theorem witness_SetFrameRowsFollowTheEcho :
    (⟨pad12 [1, 1], 0xFF, 0xFF, 0x02⟩ : CommandFields).payload.length = 12 ∧
      (∀ v, ScanEnds State.reset.cfg (State.reset.env.write v)) ∧
      ∀ v, ScanEnds (noisy r105 []).cfg ((noisy r105 []).env.write v) :=
  ⟨rfl, fun v => (scans_after_write v).1, fun v => (scans_after_write v).2.1⟩
theorem witness_OtherFrameRowsAnswerTheirRule :
    (⟨pad12 [], 0xFF, 0xFF, 0x02⟩ : CommandFields).payload.length = 12 ∧
      (∀ v, ScanEnds State.reset.cfg (State.reset.env.write v)) ∧
      ∀ v, ScanEnds (noisy r105 []).cfg ((noisy r105 []).env.write v) :=
  ⟨rfl, fun v => (scans_after_write v).1, fun v => (scans_after_write v).2.1⟩
theorem witness_FrameRowsEqualTheirOperations :
    ConfigLegal State.reset ∧
      pad12 State.reset.cfg.plModeActive ≠ pad12 State.reset.cfg.plModeQuery ∧
      pad12 State.reset.cfg.plSleep ≠ pad12 State.reset.cfg.plWake ∧
      (⟨pad12 [1, 0], 0xFF, 0xFF, 0x01⟩ : CommandFields).payload = pad12 State.reset.cfg.plModeActive ∧
      (⟨pad12 [1, 1], 0xFF, 0xFF, 0x06⟩ : CommandFields).payload = pad12 State.reset.cfg.plWake ∧
      (⟨pad12 [], 0xFF, 0xFF, 0x02⟩ : CommandFields).payload = pad12 State.reset.cfg.plQuery ∧
      (⟨pad12 [], 0xFF, 0xFF, 0x05⟩ : CommandFields).payload = pad12 State.reset.cfg.plFirmware ∧
      (⟨pad12 [1, 5], 0xFF, 0xFF, 0x0C⟩ : CommandFields).payload =
        pad12 (payloadOf State.reset.cfg.plWorkingPeriod [5]) ∧
      (⟨pad12 [0, 0, 0, 0, 0, 0, 0, 0, 0, 0, 0xA1, 0x60], 0xFF, 0xFF, 0x04⟩ : CommandFields).payload =
        pad12 (payloadOf State.reset.cfg.plDeviceId [0xA1, 0x60]) :=
  ⟨legal_reset, by decide, by decide, rfl, rfl, rfl, rfl, rfl, rfl⟩
theorem witness_RunCycleRefinesItsFiveSteps :
    ConfigLegal State.reset ∧ LineSettles State.reset ∧ ConfigLegal (noisy [] []) ∧
      (∃ t, exec .runCycle State.reset = .next t) ∧ exec .runCycle (noisy [] []) = .fault .scanNeverEnds :=
  ⟨legal_reset, settles_reset, legal_reset, nextHas_some (by decide +kernel), rfl⟩
/-- The smallest N_SAMPLES, one report. -/
def oneRound : State :=
  withRxCfg { strictCfg with nSamples := 1 }
    ((0xAA :: eWake.tail) ++ (0xAA :: eModeQ.tail) ++
      [(⟨0x64, 0, 0x32, 0, 0xA1, 0x60, 0x97⟩ : ReportFields)].flatMap
        (fun f => 0xAA :: frameBody (sealedFrame 0xC0 f.d0 f.d1 f.d2 f.d3 f.id0 f.id1)) ++
      (0xAA :: eSleep.tail) ++ [0x13])
/-- A cycle returns on a line that is noise for ever after its frames. -/
theorem witness_RunCycleRefinesItsFiveSteps_noise :
    ∃ t, exec .runCycle { oneRound with
      cfg := { oneRound.cfg with scanMax := none }, env := { oneRound.env with lineEnd := .noise 0x55 } } = .next t :=
  nextHas_some (by decide +kernel)
theorem witness_CycleOfGoodRoundsReportsOnce :
    ∃ (s : State) (b1 b2 b3 rest : List Byte) (fs : List ReportFields), ConfigLegal s ∧ s.env.line = [] ∧
      b1.length = 9 ∧ b2.length = 9 ∧ b3.length = 9 ∧ fs.length = s.cfg.nSamples ∧
      s.env.inBuf = (0xAA :: b1) ++ (0xAA :: b2) ++
        fs.flatMap (fun f => 0xAA :: frameBody (sealedFrame 0xC0 f.d0 f.d1 f.d2 f.d3 f.id0 f.id1)) ++
        (0xAA :: b3) ++ rest :=
  ⟨oneRound, eWake.tail, eModeQ.tail, eSleep.tail, [0x13], [⟨0x64, 0, 0x32, 0, 0xA1, 0x60, 0x97⟩],
    by show cfgLegal _ = true; decide +kernel, rfl, rfl, rfl, rfl, rfl, rfl⟩
/-- A cycle with a complete batch and one without. -/
theorem witness_CyclePublishesExactlyWhenComplete :
    (∃ t, exec .runCycle oneRound = .next t ∧ decide (t.sampler.batch.length = oneRound.cfg.nSamples) = true) ∧
      ∃ t, exec .runCycle State.reset = .next t ∧
        decide (t.sampler.batch.length ≠ State.reset.cfg.nSamples) = true :=
  ⟨nextHas_next (by decide +kernel), nextHas_next (by decide +kernel)⟩
theorem witness_CycleWritesWakeModeQueriesSleep : ∃ t, exec .runCycle State.reset = .next t :=
  nextHas_some (by decide +kernel)
/-- A cycle that recovers and one that does not. -/
theorem witness_CycleRecoversAtMostOnce :
    (∃ t, exec .runCycle State.reset = .next t ∧ decide (t.sampler.recoveryCount = 1) = true) ∧
      ∃ t, exec .runCycle oneRound = .next t ∧ decide (t.sampler.recoveryCount = 0) = true :=
  ⟨nextHas_next (by decide +kernel), nextHas_next (by decide +kernel)⟩
theorem witness_CycleWaitsInOrder : ∃ t, exec .runCycle oneRound = .next t := nextHas_some (by decide +kernel)
/-- N_SAMPLES = 0; PERIOD = 0 with N_SAMPLES = 1. -/
theorem witness_SamplerRefusesIllegalConfig :
    (withRxCfg { Cfg.default with nSamples := 0 } []).cfg.nSamples = 0 ∧
      (withRxCfg { Cfg.default with nSamples := 1, period := 0 } []).cfg.nSamples ≠ 0 ∧
      (withRxCfg { Cfg.default with nSamples := 1, period := 0 } []).cfg.period ≤ 0 :=
  ⟨rfl, by decide, by show (0 : Rat) ≤ 0; decide +kernel⟩
theorem witness_MedianIsTheMiddleOfTheOrderedValues :
    ([] : List Word16) = [] ∧ ([7] : List Word16) ≠ [] ∧ ([7] : List Word16).length = 2 * 0 + 1 ∧
      ([7, 9] : List Word16) ≠ [] ∧ ([7, 9] : List Word16).length = 2 * (0 + 1) := by
  decide
theorem witness_MedianIgnoresTheInputOrder : ([1, 65535] : List Word16).Perm [65535, 1] := by decide
theorem witness_MediansNeedNoRounding : ([65535, 65534] : List Word16) ≠ [] := by decide
/-- At 0, a multiple of PERIOD, and between two multiples. -/
theorem witness_NextWakeDelayReachesTheNextMultiple :
    (0 : Rat) ≤ 0 ∧ (0 : Rat) ≤ 1 / 2 ∧ 0 < State.reset.cfg.period ∧ ∃ k : Int, (0 : Rat) = k * State.reset.cfg.period :=
  ⟨by decide +kernel, by decide +kernel, by decide +kernel, 0, by decide +kernel⟩
/-- Each operation of the table, on the quiet line and on a valid echo. -/
theorem witness_SessionOperationsWriteOnlyTheTable :
    (∃ t, exec (.setReportMode true) (withRx eModeA) = .next t) ∧ (∃ t, exec (.setReportMode true) State.reset = .next t) ∧
      (∃ t, exec (.setSleep true) (withRx eSleep) = .next t) ∧ (∃ t, exec (.setSleep true) State.reset = .next t) ∧
      (∃ t, exec .query (withRx r105) = .next t) ∧ (∃ t, exec .receiveFrame (withRx r105) = .next t) ∧
      (∃ t, exec (.setWorkingPeriod 5) (withRx eWp5) = .next t) ∧ (∃ t, exec .readFirmware (withRx eFw) = .next t) ∧
      (∃ t, exec (.deviceId 2 #v[0xA1, 0x60]) (withRx eId) = .next t) ∧ (∃ t, exec .resynchronize State.reset = .next t) :=
  ⟨nextHas_some (by decide +kernel), nextHas_some (by decide +kernel), nextHas_some (by decide +kernel),
    nextHas_some (by decide +kernel), nextHas_some (by decide +kernel), nextHas_some (by decide +kernel),
    nextHas_some (by decide +kernel), nextHas_some (by decide +kernel), nextHas_some (by decide +kernel),
    nextHas_some (by decide +kernel)⟩
theorem witness_EachStateHasItsWriters :
    (∃ t, exec (.setSleep false) (withRx eWake) = .next t) ∧ (∃ t, exec (.setReportMode false) (withRx eModeQ) = .next t) ∧
      Instr.setSleep false ≠ .runCycle ∧ (∀ b, Instr.setSleep false ≠ .setReportMode b) ∧
      (∀ f, Instr.setSleep false ≠ .cmdModeSet f) ∧ (∀ b, Instr.setReportMode false ≠ .setSleep b) ∧
      ∀ f, Instr.setReportMode false ≠ .cmdSleep f :=
  ⟨nextHas_some (by decide +kernel), nextHas_some (by decide +kernel), by decide, by simp, by simp, by simp, by simp⟩
theorem witness_ConfigIsConstantAndTheTraceGrows : ∃ t, exec .runCycle oneRound = .next t :=
  nextHas_some (by decide +kernel)
theorem witness_OnlyTheSamplerWaitsAndPublishes :
    (∃ t, exec .query (withRx r105) = .next t) ∧ Instr.query ≠ .runCycle ∧ Instr.query ≠ .resynchronize :=
  ⟨nextHas_some (by decide +kernel), by decide, by decide⟩
theorem witness_PureOperationsTouchNothingOutside :
    (∃ t, exec (.encodeCommand .sleep []) State.reset = .next t) ∧ (∃ t, exec (.decodeResponse []) State.reset = .next t) ∧
      (∃ t, exec (.decodeMeasurement (sealedFrame 0xC0 0 0 0 0 0 0)) State.reset = .next t) ∧
      (∃ t, exec (.dataReport ⟨0, 0, 0, 0, 0, 0, 0⟩) State.reset = .next t) ∧
      (∃ t, exec (.commandEcho ⟨0, 0, 0, 0, 0, 0, 0⟩) State.reset = .next t) ∧
      (∃ t, exec (.median [0]) State.reset = .next t) ∧ (∃ t, exec (.nextWakeDelay 0) State.reset = .next t) :=
  ⟨nextHas_some (by decide +kernel), nextHas_some (by decide +kernel), nextHas_some (by decide +kernel),
    nextHas_some (by decide +kernel), nextHas_some (by decide +kernel), nextHas_some (by decide +kernel),
    nextHas_some (by decide +kernel)⟩
theorem witness_BytesLeaveAndArriveInOrder :
    (∃ t, exec .query (withRx r105) = .next t) ∧ Instr.query ≠ .runCycle ∧ Instr.query ≠ .resynchronize ∧
      Instr.runCycle ≠ .resynchronize ∧
      ∃ t, exec .runCycle oneRound = .next t ∧ decide (t.sampler.recoveryCount = 0) = true :=
  ⟨nextHas_some (by decide +kernel), by decide, by decide, by decide, nextHas_next (by decide +kernel)⟩

/-- Two states that share their inputs and nothing else. -/
theorem witness_OperationsDependOnConfigAndEnvironmentOnly :
    SameInputs State.reset
        { State.reset with
          txFrame := [], rxFrame := [], rx := ⟨.body, 7, 5⟩, sampler := ⟨[⟨1, 2⟩], 3, 4, .align⟩, trace := [.resetIn],
          session := ⟨true, some .modeActive, some .sleep⟩ } ∧
      (∃ t, exec .runCycle State.reset = .next t) ∧ (∃ r, exec (.median []) State.reset = .refused r) ∧
      ∃ f, exec .receiveFrame (State.resetIn Cfg.default { Env.quiet with lineEnd := .noise 0x55 }) = .fault f :=
  ⟨⟨rfl, rfl⟩, nextHas_some (by decide +kernel), ⟨_, rfl⟩, ⟨_, test_receive_endless⟩⟩
/-- Its clauses: before configuration, and on an accepted command after it. -/
theorem witness_LifecycleFollowsTheSetCommands :
    (∃ t, exec (.setSleep true) (withRx eSleep) = .next t) ∧ lifecycle (withRx eSleep).session = .uninitialized ∧
      (∃ t, exec (.setSleep true) { withRx eSleep with session := ⟨true, some .modeQuery, none⟩ } = .next t ∧
        shows (.flag true) .ok t = true) ∧
      ∃ t, exec (.setReportMode false) (withRx eModeQ) = .next t ∧ shows (.flag true) .ok t = true :=
  ⟨nextHas_some (by decide +kernel), rfl, nextHas_next (by decide +kernel), nextHas_next (by decide +kernel)⟩
theorem witness_LifecycleNeverGoesBack :
    ∃ s t : State, step s = .next t ∧ lifecycle s.session = .awake :=
  ⟨{ State.reset with session := ⟨true, some .modeQuery, some .work⟩ }, _, rfl, rfl⟩
/-- A step that runs an operation from a state that meets the invariant. -/
theorem witness_StepKeepsTheInvariant :
    Inv (State.reset.withFetchWord 8 0xB) ∧ ∃ t, step (State.reset.withFetchWord 8 0xB) = .next t :=
  ⟨⟨⟨rfl, rfl, rfl, Nat.zero_le _, rfl⟩, by simp [SessionConsistent, State.withFetchWord, State.setRequests,
      State.reset, State.resetIn, Session.reset], ⟨Nat.zero_le _, Nat.zero_le _, rfl⟩,
      by simp [TraceConforms, State.withFetchWord, State.setRequests, State.reset, State.resetIn]⟩,
    nextHas_some (by decide +kernel)⟩
theorem witness_StepRunsTheDecodedRequest :
    State.reset.requests = [] ∧ (State.reset.withFetchWord 8 0x6).requests = tableBytes 8 0x6 :: [] ∧
      decode (tableBytes 8 0x6) = .ok .query ∧ decode (tableBytes 8 0xE) = .error (.unassignedCode 0xE) ∧
      decodeTableWord 8 0x6 = some .query := by decide
/-- Operands at the ends of their ranges. -/
theorem witness_DecodeInvertsEncode :
    (Instr.cmdSleep ⟨List.replicate 12 0xFF, 0, 0xFF, 0x55⟩).wellFormed = true ∧
      (Instr.decodeMeasurement (sealedFrame 0xC0 0xFF 0xFF 0xFF 0xFF 0xFF 0xFF)).wellFormed = true ∧
      (Instr.median [65535]).wellFormed = true ∧ (Instr.nextWakeDelay 0).wellFormed = true := by decide
theorem witness_DecodedWordsAreOfOneRow :
    decode [0x06, 0x00] = .ok .query ∧ Instr.query.row.fits [0x06, 0x00] = true := by decide
/-- The least and the greatest first byte that is refused, and a command id between two of the set. -/
theorem witness_UnassignedEncodingsAreRefused :
    16 ≤ (0x10 : Byte).toNat ∧ (0x10 : Byte) ≠ 0xAA ∧ 16 ≤ (0xFF : Byte).toNat ∧ (0xFF : Byte) ≠ 0xAA ∧
      (∀ id, (0x03 : Byte) ≠ cmdIdByte id) ∧ ∀ id, (0x09 : Byte) ≠ cmdIdByte id :=
  ⟨by decide, by decide, by decide, by decide, by intro id; cases id <;> decide, by intro id; cases id <;> decide⟩
/-- Whatever nine bytes the line of `arriving` brings, they arrive, with and without a write before. -/
theorem arrives (body v : List Byte) (h : body.length = 9) :
    FrameArrives (arriving body).cfg (arriving body).env [0x11] body (afterReads (arriving body).env [1, 1, 9]) ∧
      FrameArrives (arriving body).cfg ((arriving body).env.write v) [0x11] body
        (afterReads ((arriving body).env.write v) [1, 1, 9]) := by
  match body, h with
  | [_, _, _, _, _, _, _, _, _], _ =>
    exact ⟨⟨⟨rfl, rfl, rfl, rfl⟩, by decide, fun m hm => by cases hm; decide⟩,
      ⟨⟨rfl, rfl, rfl, rfl⟩, by decide, fun m hm => by cases hm; decide⟩⟩
/-- The line answers with nothing behind noise (`cut` 0), with and without a write before: the empty read. -/
theorem misses_by_silence (v : List Byte) :
    (∃ e, HeaderMissed (noisy [0x11] [⟨0, [], none⟩, ⟨0, [], some 0⟩]).cfg
      (noisy [0x11] [⟨0, [], none⟩, ⟨0, [], some 0⟩]).env [0x11] [.read 1 [0x11], .read 1 []] e) ∧
      ∃ e, HeaderMissed State.reset.cfg (State.reset.env.write v) [] [.read 1 []] e :=
  ⟨⟨_, ⟨rfl, rfl, rfl⟩, .inl ⟨rfl, by decide, fun m hm => by cases hm⟩⟩,
    ⟨_, ⟨rfl, rfl⟩, .inl ⟨rfl, by decide, fun m hm => by cases hm⟩⟩⟩
/-- SCAN_MAX = Some 1 and noise that arrives late and goes on for ever: the second noise byte. -/
theorem misses_by_bound (v : List Byte) :
    (∃ e, HeaderMissed (arriving [0x22]).cfg { (arriving []).env with line := [] } [0x55, 0x55]
      [.read 1 [0x55], .read 1 [0x55]] e) ∧
      ∃ e, HeaderMissed (arriving []).cfg ({ (arriving []).env with line := [⟨0, [0x11], none⟩] }.write v) [0x11, 0x55]
        [.read 1 [0x11], .read 1 [0x55]] e :=
  ⟨⟨_, ⟨rfl, rfl, rfl⟩, .inr ⟨rfl, by decide, 1, rfl, rfl⟩⟩, ⟨_, ⟨rfl, rfl, rfl⟩, .inr ⟨rfl, by decide, 1, rfl, rfl⟩⟩⟩
/-- V31, V32: one timeout is one failure, at once, behind noise as well; the next read is not made. -/
theorem test_receive_empty_read_behind_noise :
    nextHas (exec .receiveFrame (noisy ([0x11] ++ r105) [⟨0, [], none⟩, ⟨0, [], some 0⟩]))
      (fun t => shows (.received none) .noHeader t && decide (t.trace = [.read 1 [0x11], .read 1 []]) &&
        decide (t.env.inBuf = r105)) = true := by decide
/-- Bodies with a wrong checksum, a wrong tail and a right frame, and a short one. -/
theorem witness_ReceiveFrameFollowsItsAnswers :
    (∀ body ∈ [rBad.tail, List.replicate 8 0 ++ [0x13], r105.tail],
      ∃ e, FrameArrives (arriving body).cfg (arriving body).env [0x11] body e) ∧
      ∃ e, FrameArrives (arriving [0xC0]).cfg (arriving [0xC0]).env [0x11] [0xC0] e :=
  ⟨fun body hb => ⟨_, (arrives body [] (by revert body; decide)).1⟩,
    ⟨_, ⟨rfl, rfl, rfl, rfl⟩, by decide, fun m hm => by cases hm; decide⟩⟩
/-- The echo of the command, that of another command, and a data report. -/
theorem witness_SetCommandsJudgeWhatArrives :
    (∀ body ∈ [eModeQ.tail, eSleep.tail, r105.tail], ∀ v, ConfigLegal (arriving body) ∧
      ∃ e, FrameArrives (arriving body).cfg ((arriving body).env.write v) [0x11] body e) ∧
      SealedEcho (arriving []).cfg 2 eModeQ.tail ∧ ¬ SealedEcho (arriving []).cfg 2 eSleep.tail ∧
      SealedEcho (arriving []).cfg 6 eSleep.tail ∧ ¬ SealedEcho (arriving []).cfg 6 r105.tail := by
  refine ⟨fun body hb v => ⟨legal_arriving body, _, (arrives body v (by revert body; decide)).2⟩,
    ⟨_, _, _, _, _, _, _, rfl, by decide, by decide⟩, ?_, ⟨_, _, _, _, _, _, _, rfl, by decide, by decide⟩, ?_⟩
  · rintro ⟨d0, d1, d2, d3, i0, i1, cs, h, -, hd⟩
    cases h
    exact absurd (hd rfl) (by decide)
  · rintro ⟨d0, d1, d2, d3, i0, i1, cs, h, -, -⟩
    exact absurd (List.cons.inj h).1 (by decide)
/-- Every branch of the answer: wrong checksum, wrong tail, no data report, a data report; short with an empty line. -/
theorem witness_QueryJudgesWhatArrives :
    (∀ body ∈ [rBad.tail, List.replicate 8 0 ++ [0x13], eModeQ.tail, r105.tail], ∀ v, ConfigLegal (arriving body) ∧
      ∃ e, FrameArrives (arriving body).cfg ((arriving body).env.write v) [0x11] body e) ∧
      ∃ e, FrameArrives (withRx [0xAA, 0xC0]).cfg ((withRx [0xAA, 0xC0]).env.write queryFrame) [] [0xC0] e :=
  ⟨fun body hb v => ⟨legal_arriving body, _, (arrives body v (by revert body; decide)).2⟩,
    ⟨_, ⟨rfl, rfl, rfl⟩, by decide, fun m hm => by cases hm⟩⟩
/-- One echo per command and one of another command; the operands are those of the witness further up. -/
theorem witness_RawEchoCommandsJudgeWhatArrives :
    (∀ body ∈ [eWp5.tail, eFw.tail, eId.tail, eModeQ.tail], ∀ v, ConfigLegal (arriving body) ∧
      ∃ e, FrameArrives (arriving body).cfg ((arriving body).env.write v) [0x11] body e) ∧
      SealedEcho (arriving []).cfg 8 eWp5.tail ∧ SealedEcho (arriving []).cfg 7 eFw.tail ∧
      SealedEcho (arriving []).cfg 5 eId.tail ∧ ¬ SealedEcho (arriving []).cfg 5 eModeQ.tail := by
  refine ⟨fun body hb v => ⟨legal_arriving body, _, (arrives body v (by revert body; decide)).2⟩,
    ⟨_, _, _, _, _, _, _, rfl, by decide, by decide⟩, ⟨_, _, _, _, _, _, _, rfl, by decide, by decide⟩,
    ⟨_, _, _, _, _, _, _, rfl, by decide, by decide⟩, ?_⟩
  rintro ⟨d0, d1, d2, d3, i0, i1, cs, h, -, hd⟩
  cases h
  exact absurd (hd rfl) (by decide)
/-- A cycle that recovers, one that does not, and a resynchronisation. -/
theorem witness_EventsAreWhatTheEnvironmentAnswered :
    (∃ t, exec .runCycle State.reset = .next t) ∧ (∃ t, exec .runCycle oneRound = .next t) ∧
      ∃ t, exec .resynchronize State.reset = .next t :=
  ⟨nextHas_some (by decide +kernel), nextHas_some (by decide +kernel), nextHas_some (by decide +kernel)⟩
/-- A complete cycle and one that is not, and an operation that reads no clock. -/
theorem witness_CycleReadsTheClockAtMostTwice :
    (∃ t, exec .runCycle oneRound = .next t ∧ decide (t.sampler.batch.length = oneRound.cfg.nSamples) = true) ∧
      (∃ t, exec .runCycle State.reset = .next t ∧
        decide (t.sampler.batch.length ≠ State.reset.cfg.nSamples) = true) ∧
      (∃ t, exec .query State.reset = .next t) ∧ Instr.query ≠ .runCycle :=
  ⟨nextHas_next (by decide +kernel), nextHas_next (by decide +kernel), nextHas_some (by decide +kernel), by decide⟩
/-- A CFG whose PL_DEVICE_ID takes arguments of three bytes and the empty one. -/
def longIdCfg : Cfg :=
  { Cfg.default with
    plDeviceId := ⟨[3, 0], [([0x11, 0x22, 0x33], [0x01, 0x11, 0x22, 0x33])], [.const 0x07]⟩ }
theorem witness_DeviceIdTakesTheArgumentsOfItsPayload :
    ConfigLegal (withRxCfg longIdCfg eId) ∧ 3 ∈ longIdCfg.plDeviceId.lengths ∧
      0 ∈ longIdCfg.plDeviceId.lengths ∧ 2 ∉ longIdCfg.plDeviceId.lengths ∧
      ∀ v, ScanEnds (withRxCfg longIdCfg eId).cfg ((withRxCfg longIdCfg eId).env.write v) :=
  ⟨by show cfgLegal longIdCfg = true; decide +kernel, by decide, by decide, by decide, fun _ => .inr ⟨0, .inr rfl⟩⟩
/-- A configured argument of three bytes is sent as its payload (R95, R102). -/
theorem test_device_id_three_bytes :
    nextHas (exec (.deviceId 3 #v[0x11, 0x22, 0x33]) (withRxCfg longIdCfg eId))
      (fun t => shows (.received (some (sealedFrame 0xC5 5 0 0 0 0xA1 0x60))) .ok t &&
        decide (t.txFrame = [0xAA, 0xB4, 5, 1, 0x11, 0x22, 0x33, 0, 0, 0, 0, 0, 0, 0, 0, 0xFF, 0xFF, 0x6A, 0xAB])) =
      true := by decide

end Sys2Proof.Tests
end

namespace Sys2Proof.Machine

/-! ## What one operation does

One inversion for the whole dispatch: an instruction that answers a next state computed without the line, received
once, made one round trip, resynchronised, or ran a cycle. The statements about every instruction follow from these
five shapes. -/

/-! ### Only accesses the engine may make (R31, R32, R39, R142) -/

theorem engineEvent_command (cfg : Cfg) (id : CmdId) {p : List Byte} (hp : p.length ≤ payloadMax) :
    EngineEvent cfg (.write (commandFrame cfg id p)) := ⟨id, p, hp, rfl⟩

theorem engineEvent_now (cfg : Cfg) (e : Env) : EngineEvent cfg (.now e.clockAnswer) := e.clockAnswer_nonneg

theorem Reception.engine {cfg : Cfg} {evs : List Event} {r : Except FailCode ResponseFrame}
    (h : Reception cfg evs r) : ∀ ev ∈ evs, EngineEvent cfg ev := by
  have scans : ∀ noise, ∀ ev ∈ scanEvents noise, EngineEvent cfg ev := by
    intro noise ev hev
    obtain ⟨b, _, rfl⟩ := List.mem_map.mp hev
    exact ⟨.inl rfl, by simp⟩
  cases h with
  | empty noise => simpa [or_imp, forall_and, EngineEvent] using scans noise
  | bound noise => exact scans noise
  | framed noise body _ hb => simpa [or_imp, forall_and, EngineEvent, hb] using scans noise

theorem Rounds.engine {cfg : Cfg} {k : Nat} {er : List Event} {ms : List Measurement} {aborted : Bool}
    (h : Rounds cfg k er ms aborted) (hq : cfg.plQuery.length ≤ payloadMax) : ∀ ev ∈ er, EngineEvent cfg ev := by
  have starts : ∀ ev ∈ [.wait .interSample, .write (commandFrame cfg .queryData cfg.plQuery)],
      EngineEvent cfg ev := by
    simpa [EngineEvent] using engineEvent_command cfg .queryData hq
  induction h with
  | complete => simp
  | good k evs rest f m ms ab hr _ _ ih =>
    exact List.forall_mem_append.mpr ⟨List.forall_mem_append.mpr ⟨starts, hr.engine⟩, ih⟩
  | failed k evs r hr _ =>
    exact List.forall_mem_append.mpr ⟨List.forall_mem_append.mpr ⟨starts, hr.engine⟩, by simp [EngineEvent]⟩

/-! ### A cycle that returned had legal payloads (R94) -/

theorem wakeAndMode_payloads {s t : State} {x : Unit} (h : wakeAndMode s = .done x t) :
    s.cfg.plWake.length ≤ payloadMax ∧ s.cfg.plModeQuery.length ≤ payloadMax := by
  obtain ⟨_, s1, h1, h⟩ := Run.andThen_done h
  obtain ⟨_, s2, h2, _⟩ := Run.andThen_done h
  obtain ⟨p1, _, _, _, c1, _⟩ := sleepCommand_shows h1
  have p2 : s1.cfg.plModeQuery.length ≤ payloadMax := (modeCommand_shows h2).1
  rw [c1.cfg] at p2
  exact ⟨p1, p2⟩

theorem runRounds_payload {k : Nat} {s t : State} {x : Unit} (h : runRounds k s = .done x t) (hk : k ≠ 0) :
    s.cfg.plQuery.length ≤ payloadMax := by
  obtain ⟨k, rfl⟩ := Nat.exists_eq_succ_of_ne_zero hk
  obtain ⟨_, _, hq, _⟩ := Run.andThen_done h
  exact (queryCommand_shows hq).1

theorem backToSleep_payload {s t : State} {x : Unit} (h : backToSleep s = .done x t) :
    s.cfg.plSleep.length ≤ payloadMax := by
  obtain ⟨_, _, h1, _⟩ := Run.andThen_done h
  exact (sleepCommand_shows h1).1

theorem cycle_payloads {s t : State} {a : Option AggregatedSample} (h : cycle s = .done a t)
    (hn : s.cfg.nSamples ≠ 0) :
    s.cfg.plWake.length ≤ payloadMax ∧ s.cfg.plModeQuery.length ≤ payloadMax ∧
      s.cfg.plQuery.length ≤ payloadMax ∧ s.cfg.plSleep.length ≤ payloadMax := by
  obtain ⟨_, s1, h1, h⟩ := Run.andThen_done h
  obtain ⟨_, s2, h2, h⟩ := Run.andThen_done h
  obtain ⟨_, s3, h3, _⟩ := Run.andThen_done h
  obtain ⟨_, _, _, _, _, _, k1, _⟩ := wakeAndMode_shows h1
  obtain ⟨_, _, _, _, k2, _⟩ := runRounds_shows _ h2
  have c1 : s1.cfg = s.cfg := k1.cfg
  have c2 : s2.cfg = s.cfg := k2.cfg.trans c1
  have hq := runRounds_payload h2 (by rwa [c1])
  have hs := backToSleep_payload h3
  rw [c1] at hq
  rw [c2] at hs
  exact ⟨(wakeAndMode_payloads h1).1, (wakeAndMode_payloads h1).2, hq, hs⟩

/-! ### The shapes -/

/-- What an instruction may write of the session: nothing, or what the rule of its row says (R97, R98). -/
inductive SessionWrite (i : Instr) (x : Session) : Session → Prop where
  | kept : SessionWrite i x x
  | mode (hi : (∃ b, i = .setReportMode b) ∨ ∃ f, i = .cmdModeSet f) (ok : Bool) (mode : Option Bool) :
      SessionWrite i x (sessionAfterMode x ok mode)
  | power (hi : (∃ b, i = .setSleep b) ∨ ∃ f, i = .cmdSleep f) (ok : Bool) (sleep : Option Bool) :
      SessionWrite i x (sessionAfterSleep x ok sleep)

/-- What the instruction `i` did when it took `s` to `t`, the output left aside. -/
inductive Performs (i : Instr) (s t : State) : Prop where
  /-- It computed: at most a frame buffer was written, at its width. -/
  | computed (h : t = { s with txFrame := t.txFrame, rxFrame := t.rxFrame, output := t.output })
      (tx : s.txFrame.length = cmdLen → t.txFrame.length = cmdLen)
      (rx : s.rxFrame.length = rspLen → t.rxFrame.length = rspLen)
  /-- It received once. -/
  | received (hi : i = .receiveFrame) (evs : List Event) (r : Except FailCode ResponseFrame)
      (hr : Reception s.cfg evs r) (h : Receives evs s t) (session : t.session = s.session)
  /-- It made one round trip. -/
  | commanded (id : CmdId) (p : List Byte) (evs : List Event) (r : Except FailCode ResponseFrame)
      (hp : p.length ≤ payloadMax) (hr : Reception s.cfg evs r) (h : Commanded id p evs s t)
      (session : SessionWrite i s.session t.session)
  /-- It resynchronised. -/
  | resynchronized (hi : i = .resynchronize) (h : t = { resynchronize s with output := t.output })
  /-- It ran a cycle. -/
  | cycled (hi : i = .runCycle) (hn : s.cfg.nSamples ≠ 0) (a : Option AggregatedSample) (u : State)
      (hc : cycle s = .done a u) (h : t = { u with output := t.output })

theorem loadBody_length (body : List Byte) (s : State) (h : s.rxFrame.length = rspLen) :
    (loadBody body s).rxFrame.length = rspLen := by
  unfold loadBody
  split
  · exact h
  · simp [rspLen]; omega

theorem loadBody_frame (body : List Byte) (s : State) :
    loadBody body s = { s with rxFrame := (loadBody body s).rxFrame } := by
  unfold loadBody; split <;> rfl

theorem performs_returns (i : Instr) (s : State) (v : Value) (c : FailCode) : Performs i s (s.setOutput v c) :=
  .computed rfl id id

theorem performs_loadBody (i : Instr) (body : List Byte) (s : State) (v : Value) (c : FailCode) :
    Performs i s ((loadBody body s).setOutput v c) :=
  .computed (by rw [loadBody_frame]; rfl) (by rw [loadBody_frame]; exact id) (loadBody_length body s)


theorem State.returns_next {s t : State} {v : Value} {c : FailCode} (h : s.returns v c = .next t) :
    t = s.setOutput v c := (Host.Outcome.next.inj h).symm

/-! ### Which instruction does which -/

/-- A round trip's effects, with the output set. -/
theorem performs_command {i : Instr} {id : CmdId} {p : List Byte} {evs : List Event}
    {r : Except FailCode ResponseFrame} {s u : State} (hp : p.length ≤ payloadMax) (hr : Reception s.cfg evs r)
    (h : Commanded id p evs s u) (hs : SessionWrite i s.session u.session) (v : Value) (c : FailCode) :
    Performs i s (u.setOutput v c) :=
  .commanded id p evs r hp hr (h.write u.session (some ⟨v, c⟩)) hs

theorem performs_modeCommand {i : Instr} (hi : (∃ b, i = .setReportMode b) ∨ ∃ f, i = .cmdModeSet f)
    {p : List Byte} {mode : Option Bool} {s t : State} (h : (modeCommand p mode s).returns flagOutput = .next t) :
    Performs i s t := by
  obtain ⟨ok, u, hu, rfl⟩ := Run.returns_next h
  obtain ⟨hp, evs, r, hr, hc, _, _, hs⟩ := modeCommand_shows hu
  exact performs_command hp hr hc (hs ▸ .mode hi ok mode) _ _

theorem performs_sleepCommand {i : Instr} (hi : (∃ b, i = .setSleep b) ∨ ∃ f, i = .cmdSleep f)
    {p : List Byte} {sleep : Option Bool} {s t : State} (h : (sleepCommand p sleep s).returns flagOutput = .next t) :
    Performs i s t := by
  obtain ⟨ok, u, hu, rfl⟩ := Run.returns_next h
  obtain ⟨hp, evs, r, hr, hc, _, _, hs⟩ := sleepCommand_shows hu
  exact performs_command hp hr hc (hs ▸ .power hi ok sleep) _ _

theorem performs_queryCommand (i : Instr) {p : List Byte} {s t : State}
    (h : (queryCommand p s).returns queryOutput = .next t) : Performs i s t := by
  obtain ⟨m, u, hu, rfl⟩ := Run.returns_next h
  obtain ⟨hp, evs, r, hr, hc, _, hs, _⟩ := queryCommand_shows hu
  exact performs_command hp hr hc (hs ▸ .kept) _ _

theorem performs_echoCommand (i : Instr) {id : CmdId} {p : List Byte} {s t : State}
    (h : (echoCommand id p s).returns echoOutput = .next t) : Performs i s t := by
  obtain ⟨a, u, hu, rfl⟩ := Run.returns_next h
  obtain ⟨hp, evs, r, hr, hc, _, hs, _⟩ := echoCommand_shows hu
  exact performs_command hp hr hc (hs ▸ .kept) _ _

theorem performs_receive {s t : State} (h : (receive s).returns receivedOutput = .next t) :
    Performs .receiveFrame s t := by
  obtain ⟨r, u, hu, rfl⟩ := Run.returns_next h
  obtain ⟨evs, hr, hc, hs, _⟩ := receive_shows hu
  exact .received rfl evs r hr (hc.write u.session _) hs

theorem execRunCycle_next {s t : State} (h : execRunCycle s = .next t) :
    s.cfg.nSamples ≠ 0 ∧ (cycle s).returns cycleOutput = .next t := by
  unfold execRunCycle at h
  split at h
  · cases h
  · rename_i hn
    split at h
    · cases h
    · exact ⟨hn, h⟩

theorem performs_cycle {s t : State} (h : execRunCycle s = .next t) : Performs .runCycle s t := by
  obtain ⟨hn, h⟩ := execRunCycle_next h
  obtain ⟨a, u, hu, rfl⟩ := Run.returns_next h
  exact .cycled rfl hn a u hu rfl

theorem performs_encodeCommand {id : CmdId} {p : List Byte} {s t : State}
    (h : execEncodeCommand id p s = .next t) : Performs (.encodeCommand id p) s t := by
  unfold execEncodeCommand at h
  by_cases hp : p.length ≤ payloadMax
  · rw [encodeFrame_ok s.cfg id p hp] at h
    rw [State.returns_next h]
    exact .computed rfl (fun _ => commandFrame_length s.cfg id p hp) fun hw => hw
  · rw [encodeFrame_error s.cfg id p (by omega)] at h
    rw [State.returns_next h]
    exact performs_returns _ s _ _

theorem performs_decodeResponse {body : List Byte} {s t : State} (h : execDecodeResponse body s = .next t) :
    Performs (.decodeResponse body) s t := by
  unfold execDecodeResponse at h
  split at h <;> (rw [State.returns_next h]; exact performs_loadBody _ body s _ _)

theorem performs_decodeMeasurement {f : ResponseFrame} {s t : State} (h : execDecodeMeasurement f s = .next t) :
    Performs (.decodeMeasurement f) s t := by
  unfold execDecodeMeasurement at h
  split at h <;> (rw [State.returns_next h]; exact performs_returns _ s _ _)

theorem performs_dataReport {f : ReportFields} {s t : State} (h : execDataReport f s = .next t) :
    Performs (.dataReport f) s t := by
  unfold execDataReport at h
  simp only at h
  split at h
  · rw [State.returns_next h]; exact performs_loadBody _ _ s _ _
  · split at h <;> (rw [State.returns_next h]; exact performs_loadBody _ _ s _ _)

theorem performs_commandEcho {f : ReportFields} {s t : State} (h : execCommandEcho f s = .next t) :
    Performs (.commandEcho f) s t := by
  unfold execCommandEcho at h
  simp only at h
  split at h <;> (rw [State.returns_next h]; exact performs_loadBody _ _ s _ _)

theorem performs_median {v : List Word16} {s t : State} (h : execMedian v s = .next t) :
    Performs (.median v) s t := by
  unfold execMedian at h
  split at h
  · cases h
  · rw [State.returns_next h]; exact performs_returns _ s _ _

theorem performs_nextWakeDelay {n : Rat} {s t : State} (h : execNextWakeDelay n s = .next t) :
    Performs (.nextWakeDelay n) s t := by
  unfold execNextWakeDelay at h
  split at h
  · cases h
  · rw [State.returns_next h]; exact performs_returns _ s _ _

/-- Every instruction that answers a next state has one of the five shapes. -/
theorem exec_performs {i : Instr} {s t : State} (h : exec i s = .next t) : Performs i s t := by
  cases i with
  | cmdModeSet f => exact performs_modeCommand (.inr ⟨f, rfl⟩) h
  | cmdQueryData f => exact performs_queryCommand _ h
  | cmdDeviceId f => exact performs_echoCommand _ h
  | cmdSleep f => exact performs_sleepCommand (.inr ⟨f, rfl⟩) h
  | cmdFirmware f => exact performs_echoCommand _ h
  | cmdWorkingPeriod f => exact performs_echoCommand _ h
  | dataReport f => exact performs_dataReport h
  | commandEcho f => exact performs_commandEcho h
  | encodeCommand id p => exact performs_encodeCommand h
  | decodeResponse body => exact performs_decodeResponse h
  | decodeMeasurement f => exact performs_decodeMeasurement h
  | receiveFrame => exact performs_receive h
  | setReportMode b => exact performs_modeCommand (.inl ⟨b, rfl⟩) h
  | setSleep b => exact performs_sleepCommand (.inl ⟨b, rfl⟩) h
  | query => exact performs_queryCommand _ h
  | setWorkingPeriod p => exact performs_echoCommand _ h
  | readFirmware => exact performs_echoCommand _ h
  | deviceId n a => exact performs_echoCommand _ (execDeviceId_next h).2
  | resynchronize => exact .resynchronized rfl (by rw [State.returns_next h]; rfl)
  | runCycle => exact performs_cycle h
  | median v => exact performs_median h
  | nextWakeDelay n => exact performs_nextWakeDelay h

/-! ### What every operation keeps and shows -/

/-- CFG and the requests stay, the trace grows by accesses the engine may make, each answered by the environment, and
the widths and ranges of R12 and R13 hold again. -/
structure Operated (new : List Event) (s t : State) : Prop where
  cfg : t.cfg = s.cfg
  requests : t.requests = s.requests
  trace : t.trace = s.trace ++ new
  answered : Answered s.env new t.env
  engine : ∀ ev ∈ new, EngineEvent s.cfg ev
  txWidth : s.txFrame.length = cmdLen → t.txFrame.length = cmdLen
  rxWidth : s.rxFrame.length = rspLen → t.rxFrame.length = rspLen
  rxPhase : s.rx.phase = .idle → t.rx.phase = .idle
  rxCount : s.rx.rxCount ≤ 9 → t.rx.rxCount ≤ 9

theorem Receives.operated {evs : List Event} {r : Except FailCode ResponseFrame} {s t : State}
    (h : Receives evs s t) (hr : Reception s.cfg evs r) : Operated evs s t where
  cfg := h.cfg
  requests := h.requests
  trace := h.trace
  answered := h.answered
  engine := hr.engine
  txWidth hw := by rw [h.txFrame, hw]
  rxWidth hw := by rw [h.rxFrame]; exact rxFrameAfter_length evs _ hw
  rxPhase _ := h.rxPhase
  rxCount _ := h.rxCount

theorem Commanded.operated {id : CmdId} {p : List Byte} {evs : List Event} {r : Except FailCode ResponseFrame}
    {s t : State} (h : Commanded id p evs s t) (hp : p.length ≤ payloadMax) (hr : Reception s.cfg evs r) :
    Operated (.write (commandFrame s.cfg id p) :: evs) s t where
  cfg := h.cfg
  requests := h.requests
  trace := h.trace
  answered := h.answered
  engine := List.forall_mem_cons.mpr ⟨engineEvent_command s.cfg id hp, hr.engine⟩
  txWidth _ := by rw [h.txFrame, commandFrame_length s.cfg id p hp]
  rxWidth hw := by rw [h.rxFrame]; exact rxFrameAfter_length evs _ hw
  rxPhase _ := h.rxPhase
  rxCount _ := h.rxCount

/-- The events of a cycle with legal payloads (R110). -/
theorem cycle_operated {s t : State} {a : Option AggregatedSample} (h : cycle s = .done a t)
    (hn : s.cfg.nSamples ≠ 0) : ∃ new, Operated new s t := by
  obtain ⟨wake, mode, query, sleep⟩ := cycle_payloads h hn
  obtain ⟨e1, e2, er, e3, r1, r2, r3, ms, aborted, hc, _⟩ := cycle_shows h
  refine ⟨_, hc.cfg, hc.requests, hc.moves.trace, hc.moves.answered, ?_, hc.txWidth, hc.rxWidth, hc.rxPhase,
    hc.rxCount⟩
  have finish : ∀ ev ∈ (if aborted then
      [.now s.env.clockAnswer, .wait (.align (wakeDelay s.cfg.period s.env.clockAnswer))]
    else
      [.now s.env.clockAnswer,
        .publish (round2 (sampleOf ms s.env.clockAnswer).pm10) (round2 (sampleOf ms s.env.clockAnswer).pm25),
        .now s.env.clockRead.clockAnswer,
        .wait (.align (wakeDelay s.cfg.period s.env.clockRead.clockAnswer))]), EngineEvent s.cfg ev := by
    split <;> simp [EngineEvent, Env.clockAnswer_nonneg]
  have write : ∀ {id p}, p.length ≤ payloadMax →
      ∀ ev ∈ [.write (commandFrame s.cfg id p)], EngineEvent s.cfg ev := fun hp => by simpa using engineEvent_command s.cfg _ hp
  have settle : ∀ ev ∈ [.wait .settle, .write (commandFrame s.cfg .modeSet s.cfg.plModeQuery)],
      EngineEvent s.cfg ev := List.forall_mem_cons.mpr ⟨trivial, write mode⟩
  simp only [List.forall_mem_append]
  exact ⟨⟨⟨⟨⟨⟨⟨write wake, hc.first.engine⟩, settle⟩, hc.second.engine⟩, hc.rounds.engine query⟩, write sleep⟩,
    hc.last.engine⟩, finish⟩

theorem Performs.operated {i : Instr} {s t : State} (h : Performs i s t) : ∃ new, Operated new s t := by
  cases h with
  | computed h tx rx =>
    rw [h]
    exact ⟨[], rfl, rfl, by simp, rfl, by simp, tx, rx, id, id⟩
  | received _ evs r hr h _ => exact ⟨evs, h.operated hr⟩
  | commanded id p evs r hp hr h _ => exact ⟨_, h.operated hp hr⟩
  | resynchronized _ h =>
    have hk := resynchronize_keeps s
    have hm := resynchronize_moves s
    rw [h]
    exact ⟨[.resetIn, .resetOut, .reopen], hk.cfg, hk.requests, hm.trace, hm.answered, by simp [EngineEvent],
      hk.txFrame, hk.rxFrame, hk.rxPhase, hk.rxCount⟩
  | cycled _ hn a u hc h =>
    obtain ⟨new, ho⟩ := cycle_operated hc hn
    rw [h]
    exact ⟨new, ho.cfg, ho.requests, ho.trace, ho.answered, ho.engine, ho.txWidth, ho.rxWidth, ho.rxPhase,
      ho.rxCount⟩

/-! ### Which part of the session and the sampler changes -/

@[simp] theorem sessionAfterMode_power (x : Session) (ok : Bool) (mode : Option Bool) :
    (sessionAfterMode x ok mode).power = x.power := by
  cases ok <;> cases mode <;> rfl

@[simp] theorem sessionAfterSleep_configured (x : Session) (ok : Bool) (sleep : Option Bool) :
    (sessionAfterSleep x ok sleep).configured = x.configured := by
  cases ok <;> cases sleep <;> rfl

@[simp] theorem sessionAfterSleep_reportMode (x : Session) (ok : Bool) (sleep : Option Bool) :
    (sessionAfterSleep x ok sleep).reportMode = x.reportMode := by
  cases ok <;> cases sleep <;> rfl

/-- The sampler is left alone and the session is written by its row's rule, or a cycle was run. -/
theorem Performs.writes_or_cycles {i : Instr} {s t : State} (h : Performs i s t) :
    (t.sampler = s.sampler ∧ SessionWrite i s.session t.session) ∨
      (i = .runCycle ∧ ∃ a u, cycle s = .done a u ∧ t = { u with output := t.output }) := by
  cases h with
  | computed h _ _ => rw [h]; exact .inl ⟨rfl, .kept⟩
  | received _ _ _ _ h hs => exact .inl ⟨h.sampler, hs ▸ .kept⟩
  | commanded _ _ _ _ _ _ h hs => exact .inl ⟨h.sampler, hs⟩
  | resynchronized _ h => rw [h, resynchronize_eq]; exact .inl ⟨rfl, .kept⟩
  | cycled hi _ a u hc h => exact .inr ⟨hi, a, u, hc, h⟩

/-- Settles O35: outside a cycle the sampler stays, and a session write is one of the two set commands'. -/
theorem eachStateHasItsWriters : Obligations.EachStateHasItsWriters := by
  intro i s t h hi
  obtain ⟨sampler, session⟩ := (exec_performs h).writes_or_cycles.resolve_right fun hc => hi hc.1
  refine ⟨sampler, ?_⟩
  generalize t.session = y at session
  cases session with
  | kept => exact ⟨fun _ _ => ⟨rfl, rfl⟩, fun _ _ => rfl⟩
  | mode hm ok mode =>
    refine ⟨fun hb hf => ?_, fun _ _ => by simp⟩
    obtain ⟨b, rfl⟩ | ⟨f, rfl⟩ := hm
    · exact absurd rfl (hb b)
    · exact absurd rfl (hf f)
  | power hp ok sleep =>
    refine ⟨fun _ _ => by simp, fun hb hf => ?_⟩
    obtain ⟨b, rfl⟩ | ⟨f, rfl⟩ := hp
    · exact absurd rfl (hb b)
    · exact absurd rfl (hf f)

/-- Settles O36: every shape of operation keeps CFG and the requests and shows engine events only. -/
theorem configIsConstantAndTheTraceGrows : Obligations.ConfigIsConstantAndTheTraceGrows := by
  intro i s t h
  obtain ⟨new, ho⟩ := (exec_performs h).operated
  exact ⟨ho.cfg, ho.requests, new, ho.trace, ho.engine⟩

/-! ### The session only gains knowledge (R14, R15, R16) -/

/-- Whoever writes the session forgets neither the report mode nor the power state, and keeps `configured` in step
with the report mode. -/
structure SessionAdvances (x y : Session) : Prop where
  configured : x.configured = true → y.configured = true
  power : x.power.isSome = true → y.power.isSome = true
  consistent : (x.configured = true ↔ x.reportMode.isSome = true) →
    (y.configured = true ↔ y.reportMode.isSome = true)

theorem SessionAdvances.refl (x : Session) : SessionAdvances x x := ⟨id, id, id⟩

theorem SessionAdvances.trans {x y z : Session} (h : SessionAdvances x y) (k : SessionAdvances y z) :
    SessionAdvances x z :=
  ⟨k.configured ∘ h.configured, k.power ∘ h.power, k.consistent ∘ h.consistent⟩

theorem sessionAfterMode_advances (x : Session) (ok : Bool) (mode : Option Bool) :
    SessionAdvances x (sessionAfterMode x ok mode) := by
  match ok, mode with
  | true, some active => exact ⟨fun _ => rfl, id, fun _ => by simp [sessionAfterMode]⟩
  | true, none => exact .refl x
  | false, _ => exact .refl x

theorem sessionAfterSleep_advances (x : Session) (ok : Bool) (sleep : Option Bool) :
    SessionAdvances x (sessionAfterSleep x ok sleep) := by
  match ok, sleep with
  | true, some b => exact ⟨id, fun _ => rfl, id⟩
  | true, none => exact .refl x
  | false, _ => exact .refl x

theorem sessionAfterCycle_advances (x : Session) (wakeOk modeOk sleepOk : Bool) :
    SessionAdvances x (sessionAfterCycle x wakeOk modeOk sleepOk) := by
  rw [← sessionAfterCycle_eq]
  exact ((sessionAfterSleep_advances _ _ _).trans (sessionAfterMode_advances _ _ _)).trans
    (sessionAfterSleep_advances _ _ _)

theorem SessionWrite.advances {i : Instr} {x y : Session} (h : SessionWrite i x y) : SessionAdvances x y := by
  cases h with
  | kept => exact .refl x
  | mode _ ok mode => exact sessionAfterMode_advances x ok mode
  | power _ ok sleep => exact sessionAfterSleep_advances x ok sleep

theorem cycle_advances {s t : State} {a : Option AggregatedSample} (h : cycle s = .done a t) :
    SessionAdvances s.session t.session := by
  obtain ⟨_, _, _, _, _, _, _, _, _, hc, _⟩ := cycle_shows h
  rw [hc.session]
  exact sessionAfterCycle_advances _ _ _ _

theorem Performs.advances {i : Instr} {s t : State} (h : Performs i s t) : SessionAdvances s.session t.session := by
  obtain ⟨_, hw⟩ | ⟨_, a, u, hc, ht⟩ := h.writes_or_cycles
  · exact hw.advances
  · have ha := cycle_advances hc
    rw [ht]
    exact ha

/-! ### The sampler between operations (R17 to R19, R113) -/

/-- After a cycle every round gave an entry of the batch or was the one that failed, and the phase is IDLE. -/
theorem cycle_sampler {s t : State} {a : Option AggregatedSample} (h : cycle s = .done a t) :
    SamplerConsistent t ∧ t.sampler.phase = .idle := by
  obtain ⟨_, _, _, _, _, _, _, ms, aborted, hc, _⟩ := cycle_shows h
  obtain ⟨all, fewer⟩ := hc.rounds.count
  rw [SamplerConsistent, hc.sampler, hc.cfg]
  cases aborted with
  | false => simp [all rfl]
  | true => simpa using fewer rfl

theorem Performs.sampler {i : Instr} {s t : State} (h : Performs i s t)
    (hs : SamplerConsistent s ∧ s.sampler.phase = .idle) : SamplerConsistent t ∧ t.sampler.phase = .idle := by
  obtain ⟨new, ho⟩ := h.operated
  obtain ⟨hw, _⟩ | ⟨_, a, u, hc, ht⟩ := h.writes_or_cycles
  · rwa [SamplerConsistent, hw, ho.cfg]
  · have hc := cycle_sampler hc
    rw [ht]
    exact hc

/-! ### Steps -/

/-- A step that answers a next state waits, or runs the instruction its first request decodes to. -/
theorem step_next {s t : State} (h : step s = .next t) :
    t = s ∨ ∃ i rest, exec i (s.setRequests rest) = .next t := by
  unfold step at h
  split at h
  · exact .inl (Host.Outcome.next.inj h).symm
  · split at h
    · exact .inr ⟨_, _, h⟩
    · cases h

theorem exec_keeps_inv {i : Instr} {s t : State} (hs : Inv s) (h : exec i s = .next t) : Inv t := by
  have hp := exec_performs h
  obtain ⟨⟨tx, rx, rxPhase, rxCount, phase⟩, session, sampler, trace⟩ := hs
  obtain ⟨new, ho⟩ := hp.operated
  obtain ⟨sampler', phase'⟩ := hp.sampler ⟨sampler, phase⟩
  refine ⟨⟨ho.txWidth tx, ho.rxWidth rx, ho.rxPhase rxPhase, ho.rxCount rxCount, phase'⟩,
    hp.advances.consistent session, sampler', ?_⟩
  rw [TraceConforms, ho.trace, ho.cfg]
  exact List.forall_mem_append.mpr ⟨trace, ho.engine⟩

/-- Settles O45: taking a request touches nothing of the invariant, and every instruction keeps it. -/
theorem stepKeepsTheInvariant : Obligations.StepKeepsTheInvariant := by
  intro s t hs h
  obtain rfl | ⟨i, rest, h⟩ := step_next h
  · exact hs
  · exact exec_keeps_inv (s := s.setRequests rest) hs h

/-! ### The lifecycle (R16) -/

theorem lifecycle_eq_uninitialized_iff (x : Session) : lifecycle x = .uninitialized ↔ x.configured = false := by
  obtain ⟨c, m, p⟩ := x
  cases c with
  | false => simp [lifecycle]
  | true => match p with
    | none | some .work | some .sleep => simp [lifecycle]

theorem lifecycle_awake_or_asleep_iff (x : Session) :
    lifecycle x = .awake ∨ lifecycle x = .asleep ↔ x.configured = true ∧ x.power.isSome = true := by
  obtain ⟨c, m, p⟩ := x
  cases c with
  | false => simp [lifecycle]
  | true => match p with
    | none | some .work | some .sleep => simp [lifecycle]

theorem step_advances {s t : State} (h : step s = .next t) : SessionAdvances s.session t.session := by
  obtain rfl | ⟨i, rest, h⟩ := step_next h
  · exact .refl _
  · exact (exec_performs h).advances

/-- Settles O42: the lifecycle depends on what the session knows, which no step forgets. -/
theorem lifecycleNeverGoesBack : Obligations.LifecycleNeverGoesBack := by
  intro s t h
  have ha := step_advances h
  simp only [ne_eq, lifecycle_eq_uninitialized_iff, lifecycle_awake_or_asleep_iff, Bool.not_eq_false]
  exact ⟨ha.configured, fun ⟨hc, hp⟩ => ⟨ha.configured hc, ha.power hp⟩⟩

/-- What SET_REPORT_MODE answers and leaves of the session (R97). -/
theorem execSetReportMode_next {b : Bool} {s t : State} (h : exec (.setReportMode b) s = .next t) :
    ∃ ok, t.output = some ⟨(flagOutput ok).1, (flagOutput ok).2⟩ ∧
      t.session = sessionAfterMode s.session ok (some b) := by
  obtain ⟨ok, u, hu, rfl⟩ := Run.returns_next h
  obtain ⟨_, _, _, _, _, _, _, hs⟩ := modeCommand_shows hu
  exact ⟨ok, rfl, hs⟩

/-- What SET_SLEEP answers and leaves of the session (R98). -/
theorem execSetSleep_next {b : Bool} {s t : State} (h : exec (.setSleep b) s = .next t) :
    ∃ ok, t.output = some ⟨(flagOutput ok).1, (flagOutput ok).2⟩ ∧
      t.session = sessionAfterSleep s.session ok (some b) := by
  obtain ⟨ok, u, hu, rfl⟩ := Run.returns_next h
  obtain ⟨_, _, _, _, _, _, _, hs⟩ := sleepCommand_shows hu
  exact ⟨ok, rfl, hs⟩

/-- A set command whose output shows success was accepted. -/
theorem accepted_of_output {ok : Bool} {o : Option Output}
    (h : o = some ⟨(flagOutput ok).1, (flagOutput ok).2⟩) (ha : o = some ⟨.flag true, .ok⟩) : ok = true := by
  rw [ha] at h
  cases ok with
  | true => rfl
  | false => simp [flagOutput] at h

/-- Settles O41: an accepted set command writes what it was asked for, and the lifecycle is read off the session. -/
theorem lifecycleFollowsTheSetCommands : Obligations.LifecycleFollowsTheSetCommands := by
  refine fun s t b => ⟨fun h hu => ?_, fun h ho hc => ?_, fun h ho => ?_⟩
  · obtain ⟨ok, _, hs⟩ := execSetSleep_next h
    rw [lifecycle_eq_uninitialized_iff] at hu ⊢
    rw [hs, sessionAfterSleep_configured, hu]
  · obtain ⟨ok, hok, hs⟩ := execSetSleep_next h
    obtain rfl := accepted_of_output hok ho
    rw [hs]
    cases b <;> simp [sessionAfterSleep, lifecycle, hc]
  · obtain ⟨ok, hok, hs⟩ := execSetReportMode_next h
    obtain rfl := accepted_of_output hok ho
    rw [hs]
    obtain ⟨_, _, p⟩ := s.session
    match p with
    | none | some .work | some .sleep => rfl

/-! ### Refusals and reset -/

/-- Settles O29: each refusal is the first test of its operation that fails. -/
theorem samplerRefusesIllegalConfig : Obligations.SamplerRefusesIllegalConfig := by
  have hnum : ∀ q : Rat, q ≤ 0 → q.num ≤ 0 := fun _ => Rat.num_nonpos.mpr
  refine fun s n => ⟨fun hn => ?_, fun hn hp => ?_, fun hp => ?_, rfl⟩
  · exact if_pos hn
  · exact (if_neg hn).trans (if_pos (hnum _ hp))
  · exact if_pos (hnum _ hp)

/-- Settles O43: each value is the one R23, R6, R8 or R95 states, and with no request a step waits. -/
theorem resetLeavesTheEngineIdle : Obligations.ResetLeavesTheEngineIdle := by
  have payload : ∀ p : Byte, payloadOf State.reset.cfg.plWorkingPeriod [p] = [1, p] := fun _ => rfl
  have ids : ∀ a0 a1 : Byte, payloadOf State.reset.cfg.plDeviceId [a0, a1] = List.replicate 10 0 ++ [a0, a1] :=
    fun _ _ => rfl
  intro cfg env
  exact ⟨rfl, rfl, rfl, rfl, rfl, rfl, rfl, rfl, rfl, rfl, rfl, rfl, rfl, rfl, rfl, rfl, rfl, rfl, rfl, rfl, rfl,
    payload, rfl, ids⟩

/-- Settles O44: the default CFG is legal, and a reset state is idle, knows nothing and has shown nothing. -/
theorem resetMeetsTheInvariant : Obligations.ResetMeetsTheInvariant := by
  have legal : ConfigLegal State.reset := by unfold ConfigLegal; decide +kernel
  refine ⟨legal, fun cfg env => ?_⟩
  have settled : Settled (State.resetIn cfg env) := ⟨rfl, rfl, rfl, Nat.zero_le 9, rfl⟩
  have session : SessionConsistent (State.resetIn cfg env) := by
    simp [SessionConsistent, State.resetIn, Session.reset]
  have sampler : SamplerConsistent (State.resetIn cfg env) := ⟨Nat.zero_le 1, Nat.zero_le _, rfl⟩
  have trace : TraceConforms (State.resetIn cfg env) := by simp [TraceConforms, State.resetIn]
  exact ⟨settled, session, sampler, trace⟩

end Sys2Proof.Machine

namespace Sys2Proof.Machine

/-! ## Two runs with the same inputs (R24, R46) -/

/-- From `s1` to `t1` and from `s2` to `t2` the same happened: CFG and the environment agree afterwards, both traces
grew by the same events, and the session and the batch agree afterwards if they did before. -/
structure SameEffect (s1 s2 t1 t2 : State) : Prop where
  inputs : SameInputs t1 t2
  trace : ∃ new, t1.trace = s1.trace ++ new ∧ t2.trace = s2.trace ++ new
  session : s1.session = s2.session → t1.session = t2.session
  batch : s1.sampler.batch = s2.sampler.batch → t1.sampler.batch = t2.sampler.batch

theorem SameEffect.trans {s1 s2 t1 t2 u1 u2 : State} (h : SameEffect s1 s2 t1 t2) (k : SameEffect t1 t2 u1 u2) :
    SameEffect s1 s2 u1 u2 := by
  obtain ⟨a, a1, a2⟩ := h.trace
  obtain ⟨b, b1, b2⟩ := k.trace
  refine ⟨k.inputs, ⟨a ++ b, ?_, ?_⟩, k.session ∘ h.session, k.batch ∘ h.batch⟩
  · rw [b1, a1, List.append_assoc]
  · rw [b2, a2, List.append_assoc]

/-- Writes that leave CFG, the environment and the trace alone, and what is the same of the session and the batch the
same. -/
theorem sameEffect_silent {s1 s2 t1 t2 : State} (h : SameInputs t1 t2) (r1 : t1.trace = s1.trace)
    (r2 : t2.trace = s2.trace) (session : s1.session = s2.session → t1.session = t2.session)
    (batch : s1.sampler.batch = s2.sampler.batch → t1.sampler.batch = t2.sampler.batch) :
    SameEffect s1 s2 t1 t2 :=
  ⟨h, ⟨[], by simp [r1], by simp [r2]⟩, session, batch⟩

/-- One event, with the environment's part in it. -/
theorem sameEffect_event {s1 s2 : State} (h : SameInputs s1 s2) (e : Env) (ev : Event) :
    SameEffect s1 s2 ((s1.setEnv e).record ev) ((s2.setEnv e).record ev) :=
  ⟨⟨h.1, rfl⟩, ⟨[ev], rfl, rfl⟩, id, id⟩

section Primitives
variable {s1 s2 : State} (h : SameInputs s1 s2)
include h

theorem memWrite_same (v : List Byte) : SameEffect s1 s2 (memWrite v s1) (memWrite v s2) := by
  rw [memWrite, memWrite, ← h.2]; exact sameEffect_event h _ _

theorem wait_same (l : WaitLabel) : SameEffect s1 s2 (wait l s1) (wait l s2) := by
  rw [wait, wait, ← h.2]; exact sameEffect_event h _ _

theorem now_same : SameEffect s1 s2 (now s1) (now s2) := by
  rw [now, now, ← h.2]; exact sameEffect_event h _ _

theorem publish_same (a b : Rat) : SameEffect s1 s2 (publish a b s1) (publish a b s2) := by
  rw [publish, publish, ← h.2]; exact sameEffect_event h _ _

theorem resynchronize_same : SameEffect s1 s2 (resynchronize s1) (resynchronize s2) := by
  rw [resynchronize_eq, resynchronize_eq, ← h.2]
  exact ⟨⟨h.1, rfl⟩, ⟨_, rfl, rfl⟩, id, id⟩

theorem setPhase_same (p : SamplerPhase) : SameEffect s1 s2 (s1.setPhase p) (s2.setPhase p) :=
  sameEffect_silent h rfl rfl id id

theorem recoveryAction_same : SameEffect s1 s2 (recoveryAction s1) (recoveryAction s2) := by
  rw [recoveryAction_eq, recoveryAction_eq, ← h.2]
  exact ⟨⟨h.1, rfl⟩, ⟨_, rfl, rfl⟩, id, id⟩

theorem beginRound_same : SameEffect s1 s2 (beginRound s1) (beginRound s2) := by
  rw [beginRound, beginRound, wait_eq, wait_eq]
  exact ⟨⟨h.1, congrArg Env.advance h.2⟩, ⟨[.wait .interSample], rfl, rfl⟩, id, id⟩

theorem alignWait_same : SameEffect s1 s2 (alignWait s1) (alignWait s2) := by
  have h1 := setPhase_same h .align
  have h2 := h1.trans (now_same h1.inputs)
  have h3 := h2.trans (wait_same h2.inputs (.align (wakeDelay s1.cfg.period s1.env.clockAnswer)))
  have h4 := h3.trans (setPhase_same h3.inputs .idle)
  rw [alignWait, alignWait, ← h.1, ← h.2]
  exact h4

end Primitives

/-- Two procedures ended in the same way: with the same answer and the same effect, or with the same fault or
refusal. -/
inductive SameRun {α : Type} (s1 s2 : State) : Run α → Run α → Prop where
  | done (a : α) {t1 t2 : State} (h : SameEffect s1 s2 t1 t2) : SameRun s1 s2 (.done a t1) (.done a t2)
  | fault (f : Fault) : SameRun s1 s2 (.fault f) (.fault f)
  | refused (r : Refusal) : SameRun s1 s2 (.refused r) (.refused r)

theorem SameRun.after {α : Type} {s1 s2 u1 u2 : State} {r1 r2 : Run α} (h : SameRun u1 u2 r1 r2)
    (k : SameEffect s1 s2 u1 u2) : SameRun s1 s2 r1 r2 := by
  cases h with
  | done a h => exact .done a (k.trans h)
  | fault f => exact .fault f
  | refused r => exact .refused r

theorem SameRun.andThen {α β : Type} {s1 s2 : State} {r1 r2 : Run α} {k1 k2 : α → State → Run β}
    (h : SameRun s1 s2 r1 r2)
    (hk : ∀ a t1 t2, SameEffect s1 s2 t1 t2 → SameRun t1 t2 (k1 a t1) (k2 a t2)) :
    SameRun s1 s2 (r1.andThen k1) (r2.andThen k2) := by
  cases h with
  | done a h => exact (hk a _ _ h).after h
  | fault f => exact .fault f
  | refused r => exact .refused r

section Procedures
variable {s1 s2 : State} (h : SameInputs s1 s2)
include h

theorem SameInputs.run_done {α : Type} (a : α) : SameRun s1 s2 (.done a s1) (.done a s2) :=
  .done a (sameEffect_silent h rfl rfl id id)

/-- What RECEIVE_FRAME answers is in the environment's answers: a frame that arrives, or a header that is missed. -/
theorem receive_same : SameRun s1 s2 (receive s1) (receive s2) := by
  by_cases he : ScanEnds s1.cfg s1.env
  · obtain ⟨r, t, hr⟩ := receive_returns s1 he
    obtain ⟨evs, hrec, hrcv, _, _⟩ := receive_shows hr
    have ha := hrcv.answered
    have missed : ∀ {noise}, HeaderMissed s1.cfg s1.env noise evs t.env →
        SameRun s1 s2 (receive s1) (receive s2) := by
      intro noise hm
      rw [receive_missed s1 _ _ _ hm, receive_missed s2 _ _ _ (h.1 ▸ h.2 ▸ hm)]
      exact .done _ ⟨⟨h.1, rfl⟩, ⟨_, rfl, rfl⟩, id, id⟩
    cases hrec with
    | empty noise hn => exact missed ⟨ha, .inl ⟨rfl, hn⟩⟩
    | bound noise m hm hn hl => exact missed ⟨ha, .inr ⟨rfl, hn, m, hm, hl⟩⟩
    | framed noise body hn hb =>
      have hf : FrameArrives s1.cfg s1.env noise body t.env := ⟨ha, hn⟩
      rw [receive_arrives s1 _ _ _ hf, receive_arrives s2 _ _ _ (h.1 ▸ h.2 ▸ hf)]
      exact .done _ ⟨⟨h.1, rfl⟩, ⟨_, List.append_assoc _ _ _, List.append_assoc _ _ _⟩, id, id⟩
  · rw [receive_endless s1 he, receive_endless s2 (h.1 ▸ h.2 ▸ he)]
    exact .fault _

theorem roundTrip_same (id : CmdId) (p : List Byte) : SameRun s1 s2 (roundTrip id p s1) (roundTrip id p s2) := by
  by_cases hp : p.length ≤ payloadMax
  · rw [roundTrip_eq id p s1 hp, roundTrip_eq id p s2 hp, ← h.1]
    have ht : SameEffect s1 s2 (s1.setTxFrame (commandFrame s1.cfg id p)) (s2.setTxFrame (commandFrame s1.cfg id p)) :=
      (sameEffect_silent h rfl rfl (fun x => x) (fun x => x))
    have hw := ht.trans (memWrite_same ht.inputs (commandFrame s1.cfg id p))
    exact (receive_same hw.inputs).after hw
  · have refuses : ∀ s, roundTrip id p s = .refused .payloadTooLong := fun s => by
      rw [roundTrip, encodeFrame_error s.cfg id p (by omega)]
    rw [refuses s1, refuses s2]
    exact .refused _

theorem modeCommand_same (p : List Byte) (mode : Option Bool) :
    SameRun s1 s2 (modeCommand p mode s1) (modeCommand p mode s2) := by
  refine (roundTrip_same h .modeSet p).andThen fun r t1 t2 ht => ?_
  rw [← ht.inputs.1]
  split
  · cases mode with
    | some b =>
      exact .done true (sameEffect_silent ht.inputs rfl rfl (fun hs => by simp [hs]) id)
    | none => exact ht.inputs.run_done true
  · exact ht.inputs.run_done false

theorem sleepCommand_same (p : List Byte) (sleep : Option Bool) :
    SameRun s1 s2 (sleepCommand p sleep s1) (sleepCommand p sleep s2) := by
  refine (roundTrip_same h .sleep p).andThen fun r t1 t2 ht => ?_
  rw [← ht.inputs.1]
  split
  · cases sleep with
    | some b =>
      exact .done true (sameEffect_silent ht.inputs rfl rfl (fun hs => by simp [hs]) id)
    | none => exact ht.inputs.run_done true
  · exact ht.inputs.run_done false

theorem queryCommand_same (p : List Byte) : SameRun s1 s2 (queryCommand p s1) (queryCommand p s2) := by
  refine (roundTrip_same h .queryData p).andThen fun r t1 t2 ht => ?_
  cases r with
  | error c => exact ht.inputs.run_done _
  | ok f => exact ht.inputs.run_done _

theorem echoCommand_same (id : CmdId) (p : List Byte) :
    SameRun s1 s2 (echoCommand id p s1) (echoCommand id p s2) := by
  refine (roundTrip_same h id p).andThen fun r t1 t2 ht => ?_
  rw [← ht.inputs.1]
  split
  · exact ht.inputs.run_done _
  · exact ht.inputs.run_done _

theorem setReportMode_same (b : Bool) : SameRun s1 s2 (setReportMode b s1) (setReportMode b s2) := by
  rw [setReportMode, setReportMode, ← h.1]; exact modeCommand_same h _ _

theorem setSleep_same (b : Bool) : SameRun s1 s2 (setSleep b s1) (setSleep b s2) := by
  rw [setSleep, setSleep, ← h.1]; exact sleepCommand_same h _ _

theorem query_same : SameRun s1 s2 (query s1) (query s2) := by
  rw [query, query, ← h.1]; exact queryCommand_same h _

/-! ### The cycle -/

theorem wakeAndMode_same : SameRun s1 s2 (wakeAndMode s1) (wakeAndMode s2) := by
  have h0 := setPhase_same h .wake
  refine ((setSleep_same h0.inputs false).after h0).andThen fun _ t1 t2 ht => ?_
  have k1 := setPhase_same ht.inputs .settle
  have k2 := k1.trans (wait_same k1.inputs .settle)
  have k3 := k2.trans (setPhase_same k2.inputs .mode)
  exact ((setReportMode_same k3.inputs false).after k3).andThen fun _ _ _ hu => hu.inputs.run_done ()

omit h in
theorem runRounds_same (k : Nat) : ∀ {s1 s2 : State}, SameInputs s1 s2 →
    SameRun s1 s2 (runRounds k s1) (runRounds k s2) := by
  induction k with
  | zero => exact fun h => h.run_done ()
  | succ k ih =>
    intro s1 s2 h
    have hb := beginRound_same h
    refine ((query_same hb.inputs).after hb).andThen fun r t1 t2 ht => ?_
    cases r with
    | ok m =>
      have hs : SameEffect t1 t2 (t1.setBatch (t1.sampler.batch ++ [m])) (t2.setBatch (t2.sampler.batch ++ [m])) :=
        sameEffect_silent ht.inputs rfl rfl id fun e => by simp [e]
      exact (ih hs.inputs).after hs
    | error c => exact .done () (recoveryAction_same ht.inputs)

theorem backToSleep_same : SameRun s1 s2 (backToSleep s1) (backToSleep s2) := by
  have h0 := setPhase_same h .sleep
  exact ((setSleep_same h0.inputs true).after h0).andThen fun _ _ _ ht => ht.inputs.run_done ()

theorem report_same (hb : s1.sampler.batch = s2.sampler.batch) : SameEffect s1 s2 (report s1) (report s2) := by
  have h1 := setPhase_same h .report
  have h2 := h1.trans (now_same h1.inputs)
  rw [report, report, aggregate, aggregate, ← hb, ← h.2]
  exact h2.trans (publish_same h2.inputs _ _)

theorem finishCycle_same (hb : s1.sampler.batch = s2.sampler.batch) :
    SameRun s1 s2 (finishCycle s1) (finishCycle s2) := by
  have ha : aggregate s1 = aggregate s2 := by rw [aggregate, aggregate, hb, h.2]
  rw [finishCycle, finishCycle, ← hb, ← h.1, ← ha]
  split
  · have hr := report_same h hb
    exact .done _ (hr.trans (alignWait_same hr.inputs))
  · exact .done none (alignWait_same h)

/-- A cycle empties the batch first, so what the sampler held does not matter. -/
theorem cycle_same : SameRun s1 s2 (cycle s1) (cycle s2) := by
  have h0 : SameEffect s1 s2 (beginCycle s1) (beginCycle s2) :=
    sameEffect_silent h rfl rfl id fun _ => rfl
  refine ((wakeAndMode_same h0.inputs).andThen fun _ t1 t2 ht => ?_).after h0
  rw [← ht.inputs.1]
  refine (runRounds_same _ ht.inputs).andThen fun _ u1 u2 hu => ?_
  refine (backToSleep_same hu.inputs).andThen fun _ v1 v2 hv => ?_
  exact finishCycle_same hv.inputs (hv.batch (hu.batch (ht.batch rfl)))

end Procedures

/-- Two operations ended in the same way, seen from the host. -/
inductive SameOutcome (s1 s2 : State) :
    Host.Outcome State Fault Refusal → Host.Outcome State Fault Refusal → Prop where
  | next {t1 t2 : State} (h : SameEffect s1 s2 t1 t2) (ho : t1.output = t2.output) :
      SameOutcome s1 s2 (.next t1) (.next t2)
  | fault (f : Fault) : SameOutcome s1 s2 (.fault f) (.fault f)
  | refused (r : Refusal) : SameOutcome s1 s2 (.refused r) (.refused r)

theorem SameEffect.returns {s1 s2 t1 t2 : State} (h : SameEffect s1 s2 t1 t2) (v : Value) (c : FailCode) :
    SameOutcome s1 s2 (t1.returns v c) (t2.returns v c) :=
  .next ⟨h.inputs, h.trace, h.session, h.batch⟩ rfl

theorem SameRun.returns {α : Type} {s1 s2 : State} {r1 r2 : Run α} (h : SameRun s1 s2 r1 r2)
    (out : α → Value × FailCode) : SameOutcome s1 s2 (r1.returns out) (r2.returns out) := by
  cases h with
  | done a h => exact h.returns _ _
  | fault f => exact .fault f
  | refused r => exact .refused r

section Instructions
variable {s1 s2 : State} (h : SameInputs s1 s2)
include h

theorem returns_same (v : Value) (c : FailCode) : SameOutcome s1 s2 (s1.returns v c) (s2.returns v c) :=
  .next (sameEffect_silent h rfl rfl id id) rfl

theorem loadBody_returns_same (body : List Byte) (v : Value) (c : FailCode) :
    SameOutcome s1 s2 ((loadBody body s1).returns v c) ((loadBody body s2).returns v c) := by
  unfold loadBody
  split
  · exact returns_same h v c
  · exact .next (sameEffect_silent h rfl rfl id id) rfl

theorem execEncodeCommand_same (id : CmdId) (p : List Byte) :
    SameOutcome s1 s2 (execEncodeCommand id p s1) (execEncodeCommand id p s2) := by
  rw [execEncodeCommand, execEncodeCommand, ← h.1]
  split
  · exact returns_same h _ _
  · exact .next (sameEffect_silent h rfl rfl (fun x => x) (fun x => x)) rfl

theorem execDecodeResponse_same (body : List Byte) :
    SameOutcome s1 s2 (execDecodeResponse body s1) (execDecodeResponse body s2) := by
  unfold execDecodeResponse
  split
  · exact loadBody_returns_same h _ _ _
  · exact loadBody_returns_same h _ _ _

theorem execDecodeMeasurement_same (f : ResponseFrame) :
    SameOutcome s1 s2 (execDecodeMeasurement f s1) (execDecodeMeasurement f s2) := by
  unfold execDecodeMeasurement
  split
  · exact returns_same h _ _
  · exact returns_same h _ _

theorem execDataReport_same (f : ReportFields) : SameOutcome s1 s2 (execDataReport f s1) (execDataReport f s2) := by
  simp only [execDataReport]
  split
  · exact loadBody_returns_same h _ _ _
  · split
    · exact loadBody_returns_same h _ _ _
    · exact loadBody_returns_same h _ _ _

theorem execCommandEcho_same (f : ReportFields) :
    SameOutcome s1 s2 (execCommandEcho f s1) (execCommandEcho f s2) := by
  simp only [execCommandEcho, ← h.1]
  split
  · exact loadBody_returns_same h _ _ _
  · exact loadBody_returns_same h _ _ _

theorem execCmdModeSet_same (f : CommandFields) : SameOutcome s1 s2 (execCmdModeSet f s1) (execCmdModeSet f s2) := by
  rw [execCmdModeSet, execCmdModeSet, ← h.1]; exact (modeCommand_same h _ _).returns _

theorem execCmdSleep_same (f : CommandFields) : SameOutcome s1 s2 (execCmdSleep f s1) (execCmdSleep f s2) := by
  rw [execCmdSleep, execCmdSleep, ← h.1]; exact (sleepCommand_same h _ _).returns _

theorem execSetWorkingPeriod_same (p : Byte) :
    SameOutcome s1 s2 (execSetWorkingPeriod p s1) (execSetWorkingPeriod p s2) := by
  rw [execSetWorkingPeriod, execSetWorkingPeriod, ← h.1]; exact (echoCommand_same h _ _).returns _

theorem execReadFirmware_same : SameOutcome s1 s2 (execReadFirmware s1) (execReadFirmware s2) := by
  rw [execReadFirmware, execReadFirmware, ← h.1]; exact (echoCommand_same h _ _).returns _

theorem execDeviceId_same (n : Nat) (a : Vector Byte n) :
    SameOutcome s1 s2 (execDeviceId n a s1) (execDeviceId n a s2) := by
  rw [execDeviceId, execDeviceId, ← h.1]
  split
  · exact (echoCommand_same h _ _).returns _
  · exact .refused _

theorem execRunCycle_same : SameOutcome s1 s2 (execRunCycle s1) (execRunCycle s2) := by
  rw [execRunCycle, execRunCycle, ← h.1]
  split
  · exact .refused _
  · split
    · exact .refused _
    · exact (cycle_same h).returns _

theorem execMedian_same (v : List Word16) : SameOutcome s1 s2 (execMedian v s1) (execMedian v s2) := by
  unfold execMedian
  split
  · exact .refused _
  · exact returns_same h _ _

theorem execNextWakeDelay_same (n : Rat) : SameOutcome s1 s2 (execNextWakeDelay n s1) (execNextWakeDelay n s2) := by
  rw [execNextWakeDelay, execNextWakeDelay, ← h.1]
  split
  · exact .refused _
  · exact returns_same h _ _

theorem exec_same (i : Instr) : SameOutcome s1 s2 (exec i s1) (exec i s2) := by
  cases i with
  | cmdModeSet f => exact execCmdModeSet_same h f
  | cmdQueryData f => exact (queryCommand_same h f.payload).returns queryOutput
  | cmdDeviceId f => exact (echoCommand_same h .deviceId f.payload).returns echoOutput
  | cmdSleep f => exact execCmdSleep_same h f
  | cmdFirmware f => exact (echoCommand_same h .firmware f.payload).returns echoOutput
  | cmdWorkingPeriod f => exact (echoCommand_same h .workingPeriod f.payload).returns echoOutput
  | dataReport f => exact execDataReport_same h f
  | commandEcho f => exact execCommandEcho_same h f
  | encodeCommand id p => exact execEncodeCommand_same h id p
  | decodeResponse body => exact execDecodeResponse_same h body
  | decodeMeasurement f => exact execDecodeMeasurement_same h f
  | receiveFrame => exact (receive_same h).returns receivedOutput
  | setReportMode b => exact (setReportMode_same h b).returns flagOutput
  | setSleep b => exact (setSleep_same h b).returns flagOutput
  | query => exact (query_same h).returns queryOutput
  | setWorkingPeriod p => exact execSetWorkingPeriod_same h p
  | readFirmware => exact execReadFirmware_same h
  | deviceId n a => exact execDeviceId_same h n a
  | resynchronize => exact (resynchronize_same h).returns .nothing .ok
  | runCycle => exact execRunCycle_same h
  | median v => exact execMedian_same h v
  | nextWakeDelay n => exact execNextWakeDelay_same h n

end Instructions

/-- Settles O40: the two runs of each instruction go through the same answers of the environment. -/
theorem operationsDependOnConfigAndEnvironmentOnly : Obligations.OperationsDependOnConfigAndEnvironmentOnly := by
  intro i s1 s2 h
  have hs := exec_same h i
  generalize exec i s1 = o1, exec i s2 = o2 at hs
  cases hs with
  | next h ho =>
    obtain ⟨new, r1, r2⟩ := h.trace
    refine ⟨fun t1 ht => ?_, fun f hf => ?_, fun r hr => ?_⟩
    · cases ht
      exact ⟨_, new, rfl, ho, h.inputs, r1, r2, h.session⟩
    · cases hf
    · cases hr
  | fault f => exact ⟨fun t1 ht => (by cases ht), fun _ => id, fun r hr => (by cases hr)⟩
  | refused r => exact ⟨fun t1 ht => (by cases ht), fun f hf => (by cases hf), fun _ => id⟩

end Sys2Proof.Machine

namespace Sys2Proof.Machine

/-! ## Memory: what an operation reads, sends and discards (R31 to R46) -/

/-- Settles O55: every shape of operation shows what the environment answered. -/
theorem eventsAreWhatTheEnvironmentAnswered : Obligations.EventsAreWhatTheEnvironmentAnswered := by
  intro i s t h
  obtain ⟨new, ho⟩ := (exec_performs h).operated
  exact ⟨new, ho.trace, ho.answered⟩

/-! ### The ends of a scan (R45) -/

/-- RECEIVE_FRAME faults exactly where its scan does not end. -/
theorem execReceiveFrame_fault_iff (s : State) :
    exec .receiveFrame s = .fault .scanNeverEnds ↔ ¬ ScanEnds s.cfg s.env := by
  refine ⟨fun h he => ?_, fun he => ?_⟩
  · obtain ⟨r, t, hr⟩ := receive_returns s he
    simp [exec, execReceiveFrame, hr] at h
  · rw [exec, execReceiveFrame, receive_endless s he, Run.returns]

/-- Bytes at hand without a header, nothing scheduled and noise for ever behind them: a scan with no bound uses the
bytes up one by one and then never ends (U17). -/
theorem not_scanEnds_of_noise {cfg : Cfg} {e : Env} {b : Byte} (hm : cfg.scanMax = none) (hl : e.line = [])
    (hn : ∀ x ∈ e.inBuf, x ≠ header) (he : e.lineEnd = .noise b) (hb : b ≠ header) : ¬ ScanEnds cfg e := by
  generalize hbuf : e.inBuf = bytes at hn
  induction bytes generalizing e with
  | nil =>
    rintro (h | ⟨k, h⟩)
    · simp [hm] at h
    · rw [afterReads_noise e b k hl hbuf he, e.read_one_noise b hl hbuf he] at h
      simp [hb] at h
  | cons x xs ih =>
    intro h
    obtain ⟨hx, hxs⟩ := List.forall_mem_cons.mp hn
    have hread : e.read 1 = ([x], { e with inBuf := xs }) := by
      rw [e.read_of_enough 1 hl (by simp [hbuf])]
      simp [hbuf]
    have hnext := h.next hm (by simp [hread]) (by simp [hread, hx])
    rw [hread] at hnext
    exact ih (e := { e with inBuf := xs }) hl he rfl hxs hnext

/-- Settles O9: RECEIVE_FRAME returns or faults as its scan does, and noise for ever behind no header is such a scan. -/
theorem endlessNoiseNeverReturns : Obligations.EndlessNoiseNeverReturns :=
  ⟨execReceiveFrame_fault_iff, fun s _ hm hl hn he hb =>
    (execReceiveFrame_fault_iff s).mpr (not_scanEnds_of_noise hm hl hn he hb)⟩

/-- RECEIVE_FRAME that meets no header answers None with NO_HEADER (R92, R130). -/
theorem execReceiveFrame_missed {s : State} {noise : List Byte} {evs : List Event} {e : Env}
    (h : HeaderMissed s.cfg s.env noise evs e) :
    exec .receiveFrame s = .next { s with
      env := e
      trace := s.trace ++ evs
      rx := ⟨.idle, noise.length, 0⟩
      output := some ⟨.received none, .noHeader⟩ } := by
  rw [exec, execReceiveFrame, receive_missed s noise evs e h]
  rfl

/-- Noise byte number SCAN_MAX + 1 is one of the two ways to miss a header (R45). -/
theorem headerMissed_of_bound {cfg : Cfg} {e e' : Env} {noise : List Byte} {m : Nat} (hm : cfg.scanMax = some m)
    (hl : noise.length = m + 1) (hn : ∀ b ∈ noise, b ≠ header)
    (ha : Answered e (noise.map (fun b => .read 1 [b])) e') :
    HeaderMissed cfg e noise (noise.map (fun b => .read 1 [b])) e' :=
  ⟨ha, .inr ⟨rfl, hn, m, hm, hl⟩⟩

/-- Settles O10: the noise exceeds the bound as it arrives, and bytes already buffered are answered one by one. -/
theorem scanMaxEndsTheScan : Obligations.ScanMaxEndsTheScan := by
  refine ⟨fun s m noise e hm hl hn ha => ?_, fun s m noise rest hm hline hbuf hl hn => ?_⟩
  · rw [← hl]
    exact execReceiveFrame_missed (headerMissed_of_bound hm hl hn ha)
  · have ha := answered_waiting noise rest s.env hline hbuf
    rw [← hl]
    exact execReceiveFrame_missed (headerMissed_of_bound hm hl hn ha)

/-! ### Which operations wait, publish or discard bytes (R43, R118, R141) -/

/-- Outside a cycle nothing waits or publishes, and outside RESYNCHRONIZE nothing is discarded either. -/
theorem Performs.silent {i : Instr} {s t : State} (h : Performs i s t) (hi : i ≠ .runCycle) :
    ∃ new, t.trace = s.trace ++ new ∧ new.filter isWait = [] ∧ new.filter isPublish = [] ∧
      (i ≠ .resynchronize → new.filter isBufferReset = []) := by
  cases h with
  | computed h _ _ => rw [h]; exact ⟨[], by simp, rfl, rfl, fun _ => rfl⟩
  | received _ evs r hr h _ =>
    obtain ⟨_, resets, waits, publishes, _⟩ := hr.silent
    exact ⟨evs, h.trace, waits, publishes, fun _ => resets⟩
  | commanded id p evs r _ hr h _ =>
    obtain ⟨_, resets, waits, publishes, _⟩ := hr.silent
    exact ⟨_, h.trace, waits, publishes, fun _ => resets⟩
  | resynchronized hi h =>
    rw [h]
    exact ⟨_, (resynchronize_moves s).trace, rfl, rfl, fun hn => absurd hi hn⟩
  | cycled hc => exact absurd hc hi

/-- Settles O37: no shape but a cycle waits or publishes, and no other but RESYNCHRONIZE discards bytes. -/
theorem onlyTheSamplerWaitsAndPublishes : Obligations.OnlyTheSamplerWaitsAndPublishes :=
  fun _ _ _ h hi => (exec_performs h).silent hi

/-- Only the recovery action resets buffers in the rounds of a cycle (R113). -/
theorem Rounds.no_reset {cfg : Cfg} {k : Nat} {er : List Event} {ms : List Measurement}
    (h : Rounds cfg k er ms false) : er.filter isBufferReset = [] := by
  generalize hab : false = aborted at h
  induction h with
  | complete => rfl
  | good k evs rest f m ms ab hr _ _ ih =>
    simp [List.filter_append, hr.silent.2.1, ih hab, isBufferReset]
  | failed => cases hab

/-- A cycle that did not recover discards no bytes. -/
theorem cycle_no_reset {s t : State} {a : Option AggregatedSample} (h : cycle s = .done a t)
    (hc : t.sampler.recoveryCount = 0) :
    ∃ new, t.trace = s.trace ++ new ∧ new.filter isBufferReset = [] := by
  obtain ⟨e1, e2, er, e3, r1, r2, r3, ms, aborted, cycled, _⟩ := cycle_shows h
  obtain rfl : aborted = false := by simpa [cycled.sampler] using hc
  refine ⟨_, cycled.moves.trace, ?_⟩
  simp [List.filter_append, cycled.first.silent.2.1, cycled.second.silent.2.1, cycled.rounds.no_reset,
    cycled.last.silent.2.1, isBufferReset]

/-- Outside RESYNCHRONIZE and a cycle that recovered no bytes are discarded. -/
theorem exec_no_reset {i : Instr} {s t : State} (h : exec i s = .next t) (hi : i ≠ .resynchronize)
    (hc : i = .runCycle → t.sampler.recoveryCount = 0) :
    ∃ new, t.trace = s.trace ++ new ∧ new.filter isBufferReset = [] := by
  by_cases hr : i = .runCycle
  · subst hr
    obtain ⟨a, u, hu, rfl⟩ := Run.returns_next (execRunCycle_next h).2
    exact cycle_no_reset (t := u) hu (hc rfl)
  · obtain ⟨new, trace, _, _, resets⟩ := (exec_performs h).silent hr
    exact ⟨new, trace, resets hi⟩

/-- Settles O39: the events shown are answered by the environment, and where none of them discards bytes both streams
keep their order. -/
theorem bytesLeaveAndArriveInOrder : Obligations.BytesLeaveAndArriveInOrder := by
  intro i s t h hi hc
  obtain ⟨new, trace, answered⟩ := eventsAreWhatTheEnvironmentAnswered i s t h
  obtain ⟨new', trace', resets⟩ := exec_no_reset h hi hc
  obtain rfl : new = new' := List.append_cancel_left (trace.symm.trans trace')
  obtain ⟨k, incoming⟩ := answered.incoming resets
  exact ⟨new, k, trace, answered.outgoing resets, incoming⟩

end Sys2Proof.Machine

namespace Sys2Proof

/-! ## Encoding: words and the rows of the opcode table (R55 to R69) -/

/-! ### Encode, then decode -/

/-- A command frame at the front of a word is read back as the row of its command id (R55, R61). -/
theorem Decode.readInstr_commandBytes {id : CmdId} {f : CommandFields} {i : Instr} (hf : f.wellFormed = true)
    (hi : Decode.commandRow (Machine.cmdIdByte id) f = some i) (rest : List Byte) :
    Decode.readInstr (Machine.commandBytes id f ++ rest) = .ok (i, rest) := by
  obtain ⟨payload, e0, e1, cs⟩ := f
  simp only [CommandFields.wellFormed, payloadMax] at hf
  have read : Decode.readInstr (Machine.commandBytes id ⟨payload, e0, e1, cs⟩ ++ rest) =
      Decode.readCommand (Machine.cmdIdByte id :: (payload ++ [e0, e1, cs, tailByte]) ++ rest) := rfl
  rw [read]
  match payload, hf with
  | [p0, p1, p2, p3, p4, p5, p6, p7, p8, p9, p10, p11], _ => simp [Decode.readCommand, hi]

/-- A ResponseFrame that DECODE_RESPONSE may have returned is the sealed one of its other bytes (R79). -/
theorem ResponseFrame.eq_sealedFrame {f : ResponseFrame} (h : f.wellFormed = true) :
    Machine.sealedFrame f.rtype f.d0 f.d1 f.d2 f.d3 f.id0 f.id1 = f := by
  obtain ⟨ty, d0, d1, d2, d3, i0, i1, cs, tl⟩ := f
  simp only [ResponseFrame.wellFormed, Bool.and_eq_true, decide_eq_true_eq] at h
  obtain ⟨rfl, rfl⟩ := h
  rfl

/-- ENCODE_COMMAND's operands, read back. -/
theorem Decode.readEncodeCommand_operands (id : CmdId) (p rest : List Byte) :
    Decode.readEncodeCommand (Encode.cmdId id ++ Encode.bytes p ++ rest) = .ok (.encodeCommand id p, rest) := by
  simp [Decode.readEncodeCommand]

/-- DECODE_RESPONSE's operand, read back. -/
theorem Decode.readDecodeResponse_operand (body rest : List Byte) :
    Decode.readDecodeResponse (Encode.bytes body ++ rest) = .ok (.decodeResponse body, rest) := by
  simp [Decode.readDecodeResponse]

/-- A boolean operand, read back. -/
theorem Decode.readBoolOp_operand (op : Bool → Instr) (b : Bool) (rest : List Byte) :
    Decode.readBoolOp op (Encode.bool b ++ rest) = .ok (op b, rest) := by
  simp [Decode.readBoolOp]

/-- MEDIAN's operand, read back: it is not empty (R115). -/
theorem Decode.readMedian_operand (v : Word16) (vs : List Word16) (rest : List Byte) :
    Decode.readMedian (Encode.word16 v ++ Encode.words vs ++ rest) = .ok (.median (v :: vs), rest) := by
  simp [Decode.readMedian, Encode.word16, le16_word16]

/-- NEXT_WAKE_DELAY's operand, read back: it is not negative (R119). -/
theorem Decode.readNextWakeDelay_operand {n : Rat} (h : 0 ≤ n.num) (rest : List Byte) :
    Decode.readNextWakeDelay (Encode.time n ++ rest) = .ok (.nextWakeDelay n, rest) := by
  simp [Decode.readNextWakeDelay, Decode.readTime_time n h]

/-- A well-formed instruction's word at the front of any word is read back, and exactly its bytes are taken. -/
theorem Decode.readInstr_encode {i : Instr} (h : i.wellFormed = true) (rest : List Byte) :
    Decode.readInstr (encode i ++ rest) = .ok (i, rest) := by
  cases i with
  | cmdModeSet f => exact Decode.readInstr_commandBytes (id := .modeSet) h rfl rest
  | cmdQueryData f => exact Decode.readInstr_commandBytes (id := .queryData) h rfl rest
  | cmdDeviceId f => exact Decode.readInstr_commandBytes (id := .deviceId) h rfl rest
  | cmdSleep f => exact Decode.readInstr_commandBytes (id := .sleep) h rfl rest
  | cmdFirmware f => exact Decode.readInstr_commandBytes (id := .firmware) h rfl rest
  | cmdWorkingPeriod f => exact Decode.readInstr_commandBytes (id := .workingPeriod) h rfl rest
  | dataReport f => rfl
  | commandEcho f => rfl
  | encodeCommand id p => exact Decode.readEncodeCommand_operands id p rest
  | decodeResponse body => exact Decode.readDecodeResponse_operand body rest
  | decodeMeasurement f =>
    exact congrArg (fun g => Except.ok (Instr.decodeMeasurement g, rest)) (ResponseFrame.eq_sealedFrame h)
  | receiveFrame => rfl
  | setReportMode active => exact Decode.readBoolOp_operand .setReportMode active rest
  | setSleep sleep => exact Decode.readBoolOp_operand .setSleep sleep rest
  | query => rfl
  | setWorkingPeriod p => rfl
  | readFirmware => rfl
  | deviceId n a => exact Decode.readDeviceId_argument n a rest
  | resynchronize => rfl
  | runCycle => rfl
  | median v =>
    cases v with
    | nil => cases h
    | cons v vs => exact Decode.readMedian_operand v vs rest
  | nextWakeDelay n => exact Decode.readNextWakeDelay_operand (of_decide_eq_true h) rest

/-- Settles O47: the word of a well-formed instruction is read back with nothing left over. -/
theorem decodeInvertsEncode : Obligations.DecodeInvertsEncode := by
  intro i h
  have read := Decode.readInstr_encode h []
  rw [List.append_nil] at read
  exact decode_of_readInstr read

/-- Settles O50: each word written out is the encoding of its instruction. -/
theorem writtenOutWordsDecode : Obligations.WrittenOutWordsDecode :=
  ⟨decodeInvertsEncode (.cmdSleep ⟨[0x01, 0x01, 0, 0, 0, 0, 0, 0, 0, 0, 0, 0], 0xFF, 0xFF, 0x06⟩) rfl,
    decodeInvertsEncode (.dataReport ⟨0xD4, 0x04, 0x3A, 0x0A, 0xA1, 0x60, 0x1D⟩) rfl,
    decodeInvertsEncode (.commandEcho ⟨0x07, 0x12, 0x0B, 0x10, 0xA1, 0x60, 0x35⟩) rfl,
    decodeInvertsEncode (.setSleep true) rfl, decodeInvertsEncode .query rfl, decodeInvertsEncode .runCycle rfl⟩

/-! ### Which words decode (R63, R67, R68, R69) -/

/-- A decoded word is an instruction that was read from its front, and what is left over. -/
theorem readInstr_of_decode {word : List Byte} {i : Instr} (h : decode word = .ok i) :
    ∃ rest, Decode.readInstr word = .ok (i, rest) := by
  unfold decode at h
  split at h
  · cases h
  · rename_i r hr
    split at h
    · cases h
      exact ⟨r.2, hr⟩
    · cases h

/-- A word that cannot be read does not decode. -/
theorem decode_of_readInstr_error {word : List Byte} {why : Reject} (h : Decode.readInstr word = .error why) :
    decode word = .error why := by
  simp [decode, h]

/-- A first byte that is neither below 0x10 nor the header starts no request (log entry 5). -/
theorem Decode.readInstr_notARequest {b : Byte} (h16 : 16 ≤ b.toNat) (hb : b ≠ header) (rest : List Byte) :
    Decode.readInstr (b :: rest) = .error (.notARequest b) := by
  have h170 : b.toNat ≠ 0xAA := fun h => hb (BitVec.eq_of_toNat_eq h)
  simp only [Decode.readInstr]
  split
  case h_18 => rfl
  all_goals omega

/-- A command-id byte that has a row is the byte of a command id, and the row has that byte (R61, R69). -/
theorem Decode.commandRow_some {b : Byte} {f : CommandFields} {i : Instr} (h : Decode.commandRow b f = some i) :
    ∃ name id, b = Machine.cmdIdByte id ∧ i.row = commandTableRow name (Machine.cmdIdByte id) := by
  unfold Decode.commandRow at h
  split at h
  · cases h; exact ⟨"CMD_MODE_SET", .modeSet, ‹_›, rfl⟩
  split at h
  · cases h; exact ⟨"CMD_QUERY_DATA", .queryData, ‹_›, rfl⟩
  split at h
  · cases h; exact ⟨"CMD_DEVICE_ID", .deviceId, ‹_›, rfl⟩
  split at h
  · cases h; exact ⟨"CMD_SLEEP", .sleep, ‹_›, rfl⟩
  split at h
  · cases h; exact ⟨"CMD_FIRMWARE", .firmware, ‹_›, rfl⟩
  split at h
  · cases h; exact ⟨"CMD_WORKING_PERIOD", .workingPeriod, ‹_›, rfl⟩
  · cases h

/-- A command frame that can be read, taken apart: its command id, its open bytes and its row (R55, R61). -/
theorem Decode.readCommand_ok {bs rest : List Byte} {i : Instr} (h : Decode.readCommand bs = .ok (i, rest)) :
    ∃ id f, f.wellFormed = true ∧ header :: devAddr :: bs = Machine.commandBytes id f ++ rest ∧
      ∃ name, i.row = commandTableRow name (Machine.cmdIdByte id) := by
  unfold Decode.readCommand at h
  split at h
  · rename_i p0 p1 p2 p3 p4 p5 p6 p7 p8 p9 p10 p11 e0 e1 cs _ _
    split at h
    · rename_i htl
      split at h
      · rename_i hrow
        obtain ⟨name, id, rfl, hi⟩ := Decode.commandRow_some hrow
        cases h
        subst htl
        exact ⟨id, ⟨[p0, p1, p2, p3, p4, p5, p6, p7, p8, p9, p10, p11], e0, e1, cs⟩, rfl, rfl, name, hi⟩
      · cases h
    · cases h
  · cases h

/-- A response type that has a row is the type of that row (R62). -/
theorem Decode.responseRow_some {ty : Byte} {f : ReportFields} {i : Instr} (h : Decode.responseRow ty f = some i) :
    (ty = typeData ∧ i = .dataReport f) ∨ (ty = typeEcho ∧ i = .commandEcho f) := by
  by_cases hd : ty = typeData
  · subst hd
    exact .inl ⟨rfl, (Option.some.inj h).symm⟩
  · by_cases he : ty = typeEcho
    · subst he
      exact .inr ⟨rfl, (Option.some.inj h).symm⟩
    · simp [Decode.responseRow, Machine.classify, hd, he] at h

/-- A response frame that can be read is one of the two rows' own words, and what is left over (R58, R62). -/
theorem Decode.readResponse_ok {bs rest : List Byte} {i : Instr} (h : Decode.readResponse bs = .ok (i, rest)) :
    ∃ f, (i = .dataReport f ∨ i = .commandEcho f) ∧ header :: bs = encode i ++ rest := by
  unfold Decode.readResponse at h
  split at h
  · rename_i ty d0 d1 d2 d3 i0 i1 cs tl _
    split at h
    · rename_i htl
      split at h
      · rename_i hrow
        cases h
        subst htl
        refine ⟨⟨d0, d1, d2, d3, i0, i1, cs⟩, ?_⟩
        obtain ⟨rfl, rfl⟩ | ⟨rfl, rfl⟩ := Decode.responseRow_some hrow
        · exact ⟨.inl rfl, rfl⟩
        · exact ⟨.inr rfl, rfl⟩
      · cases h
    · cases h
  · cases h

/-- Settles O49: an unassigned code and a byte that is no request are refused at once, and a command frame is read only
where its command id has a row. -/
theorem unassignedEncodingsAreRefused : Obligations.UnassignedEncodingsAreRefused := by
  refine fun b rest => ⟨rfl, rfl, fun h16 hb => ?_, fun hid i h => ?_⟩
  · exact decode_of_readInstr_error (Decode.readInstr_notARequest h16 hb rest)
  · obtain ⟨_, hread⟩ := readInstr_of_decode h
    obtain ⟨id, f, _, hbytes, _⟩ := Decode.readCommand_ok (bs := b :: rest) hread
    have hb : b = Machine.cmdIdByte id := by
      simp only [Machine.commandBytes, List.cons_append, List.cons.injEq] at hbytes
      exact hbytes.2.2.1
    exact hid id hb

/-! ### The rows of the opcode table (R69) -/

/-- Bytes after the row's are operands: they do not matter. -/
theorem TableRow.fits_append {r : TableRow} {word : List Byte} (h : r.fits word = true) (rest : List Byte) :
    r.fits (word ++ rest) = true := by
  simp only [TableRow.fits, Bool.and_eq_true, decide_eq_true_eq] at h ⊢
  obtain ⟨hlen, hbits⟩ := h
  have htake : (word ++ rest).take r.mask.length = word.take r.mask.length := List.take_append_of_le_length hlen
  have hlen' : r.mask.length ≤ (word ++ rest).length := by rw [List.length_append]; omega
  refine ⟨hlen', ?_⟩
  rw [List.zipWith_eq_zipWith_take_min, min_eq_right hlen', htake, ← min_eq_right hlen,
    ← List.zipWith_eq_zipWith_take_min, hbits]

/-- A word that starts with a host operation's code is of its row. -/
theorem fits_of_hostRow {i : Instr} {name : String} {code c : Byte} (hi : i.row = hostTableRow name code)
    (hc : c.toNat = code.toNat) (rest : List Byte) : i.row.fits (c :: rest) = true := by
  rw [hi, BitVec.eq_of_toNat_eq hc]
  exact Laws.FitsRow.fits_hostOp name code rest

/-! The row of what each reader of operands answers. -/

theorem Decode.readEncodeCommand_row {bs rest : List Byte} {i : Instr}
    (h : Decode.readEncodeCommand bs = .ok (i, rest)) : i.row = hostTableRow "ENCODE_COMMAND" 0x00 := by
  unfold Decode.readEncodeCommand at h
  split at h
  · cases h
  · split at h <;> cases h
    rfl

theorem Decode.readDecodeResponse_row {bs rest : List Byte} {i : Instr}
    (h : Decode.readDecodeResponse bs = .ok (i, rest)) : i.row = hostTableRow "DECODE_RESPONSE" 0x01 := by
  unfold Decode.readDecodeResponse at h
  split at h
  · cases h
  · cases h; rfl

theorem Decode.readDecodeMeasurement_row {bs rest : List Byte} {i : Instr}
    (h : Decode.readDecodeMeasurement bs = .ok (i, rest)) : i.row = hostTableRow "DECODE_MEASUREMENT" 0x02 := by
  unfold Decode.readDecodeMeasurement at h
  split at h
  · cases h; rfl
  · cases h

theorem Decode.readSetWorkingPeriod_row {bs rest : List Byte} {i : Instr}
    (h : Decode.readSetWorkingPeriod bs = .ok (i, rest)) : i.row = hostTableRow "SET_WORKING_PERIOD" 0x07 := by
  unfold Decode.readSetWorkingPeriod at h
  split at h
  · cases h; rfl
  · cases h

theorem Decode.readDeviceId_row {bs rest : List Byte} {i : Instr}
    (h : Decode.readDeviceId bs = .ok (i, rest)) : i.row = hostTableRow "DEVICE_ID" 0x09 := by
  unfold Decode.readDeviceId at h
  split at h
  · cases h
  · split at h
    · split at h <;> cases h
      rfl
    · split at h
      · split at h <;> cases h
        rfl
      · cases h

theorem Decode.readMedian_row {bs rest : List Byte} {i : Instr}
    (h : Decode.readMedian bs = .ok (i, rest)) : i.row = hostTableRow "MEDIAN" 0x0C := by
  unfold Decode.readMedian at h
  split at h
  · split at h <;> cases h
    rfl
  · cases h

theorem Decode.readNextWakeDelay_row {bs rest : List Byte} {i : Instr}
    (h : Decode.readNextWakeDelay bs = .ok (i, rest)) : i.row = hostTableRow "NEXT_WAKE_DELAY" 0x0D := by
  unfold Decode.readNextWakeDelay at h
  split at h
  · cases h
  · cases h; rfl

theorem Decode.readBoolOp_ok {op : Bool → Instr} {bs rest : List Byte} {i : Instr}
    (h : Decode.readBoolOp op bs = .ok (i, rest)) : ∃ b, i = op b := by
  unfold Decode.readBoolOp at h
  split at h
  · cases h
  · cases h; exact ⟨_, rfl⟩

theorem Decode.readSetReportMode_row {bs rest : List Byte} {i : Instr}
    (h : Decode.readBoolOp .setReportMode bs = .ok (i, rest)) : i.row = hostTableRow "SET_REPORT_MODE" 0x04 := by
  obtain ⟨_, rfl⟩ := Decode.readBoolOp_ok h
  rfl

theorem Decode.readSetSleep_row {bs rest : List Byte} {i : Instr}
    (h : Decode.readBoolOp .setSleep bs = .ok (i, rest)) : i.row = hostTableRow "SET_SLEEP" 0x05 := by
  obtain ⟨_, rfl⟩ := Decode.readBoolOp_ok h
  rfl

/-- A frame that can be read is of the row of the instruction read (R55, R58). -/
theorem Decode.fits_of_readFrame {bs rest : List Byte} {i : Instr} (h : Decode.readFrame bs = .ok (i, rest)) :
    i.row.fits (header :: bs) = true := by
  unfold Decode.readFrame at h
  split at h
  · cases h
  · split at h
    · rename_i hb
      obtain ⟨id, f, hf, hbytes, name, hi⟩ := Decode.readCommand_ok h
      rw [hb, hbytes, hi]
      exact TableRow.fits_append (Laws.FitsRow.fits_commandFrame name id f hf) rest
    · obtain ⟨f, hi, hbytes⟩ := Decode.readResponse_ok h
      rw [hbytes]
      obtain rfl | rfl := hi
      · exact TableRow.fits_append (Laws.FitsRow.dataReport f rfl) rest
      · exact TableRow.fits_append (Laws.FitsRow.commandEcho f rfl) rest

/-- A word whose front can be read is of the row of the instruction read. -/
theorem Decode.fits_of_readInstr {word rest : List Byte} {i : Instr} (h : Decode.readInstr word = .ok (i, rest)) :
    i.row.fits word = true := by
  cases word with
  | nil => cases h
  | cons c bs =>
    simp only [Decode.readInstr] at h
    split at h
    case h_1 hc => exact fits_of_hostRow (Decode.readEncodeCommand_row h) hc bs
    case h_2 hc => exact fits_of_hostRow (Decode.readDecodeResponse_row h) hc bs
    case h_3 hc => exact fits_of_hostRow (Decode.readDecodeMeasurement_row h) hc bs
    case h_4 hc => cases h; exact fits_of_hostRow rfl hc _
    case h_5 hc => exact fits_of_hostRow (Decode.readSetReportMode_row h) hc bs
    case h_6 hc => exact fits_of_hostRow (Decode.readSetSleep_row h) hc bs
    case h_7 hc => cases h; exact fits_of_hostRow rfl hc _
    case h_8 hc => exact fits_of_hostRow (Decode.readSetWorkingPeriod_row h) hc bs
    case h_9 hc => cases h; exact fits_of_hostRow rfl hc _
    case h_10 hc => exact fits_of_hostRow (Decode.readDeviceId_row h) hc bs
    case h_11 hc => cases h; exact fits_of_hostRow rfl hc _
    case h_12 hc => cases h; exact fits_of_hostRow rfl hc _
    case h_13 hc => exact fits_of_hostRow (Decode.readMedian_row h) hc bs
    case h_14 hc => exact fits_of_hostRow (Decode.readNextWakeDelay_row h) hc bs
    case h_15 => cases h
    case h_16 => cases h
    case h_17 hc =>
      obtain rfl : c = header := BitVec.eq_of_toNat_eq hc
      exact Decode.fits_of_readFrame h
    case h_18 => cases h

/-- Do the two rows agree wherever both fix a bit? -/
def TableRow.agrees (r r' : TableRow) : Bool :=
  decide (List.zipWith (· &&& ·) r.matchBits r'.mask = List.zipWith (· &&& ·) r'.matchBits r.mask)

theorem TableRow.agrees_comm (r r' : TableRow) : r.agrees r' = r'.agrees r := by
  simp only [TableRow.agrees, eq_comm]

/-- Two rows that one word fits agree. -/
theorem TableRow.agrees_of_fits {r r' : TableRow} {word : List Byte} (h : r.fits word = true)
    (h' : r'.fits word = true) : r.agrees r' = true := by
  simp only [TableRow.fits, Bool.and_eq_true, decide_eq_true_eq] at h h'
  rw [TableRow.agrees, decide_eq_true_eq, ← h.2, ← h'.2]
  apply List.ext_getElem
  · simp only [List.length_zipWith]; omega
  · intro k _ _
    simp only [List.getElem_zipWith]
    ac_rfl

/-- The 22 rows (R69). -/
def tableRows : List TableRow :=
  [commandTableRow "CMD_MODE_SET" 0x02, commandTableRow "CMD_QUERY_DATA" 0x04, commandTableRow "CMD_DEVICE_ID" 0x05,
    commandTableRow "CMD_SLEEP" 0x06, commandTableRow "CMD_FIRMWARE" 0x07,
    commandTableRow "CMD_WORKING_PERIOD" 0x08, responseTableRow "DATA_REPORT" 0xC0,
    responseTableRow "COMMAND_ECHO" 0xC5, hostTableRow "ENCODE_COMMAND" 0x00, hostTableRow "DECODE_RESPONSE" 0x01,
    hostTableRow "DECODE_MEASUREMENT" 0x02, hostTableRow "RECEIVE_FRAME" 0x03, hostTableRow "SET_REPORT_MODE" 0x04,
    hostTableRow "SET_SLEEP" 0x05, hostTableRow "QUERY" 0x06, hostTableRow "SET_WORKING_PERIOD" 0x07,
    hostTableRow "READ_FIRMWARE" 0x08, hostTableRow "DEVICE_ID" 0x09, hostTableRow "RESYNCHRONIZE" 0x0A,
    hostTableRow "RUN_CYCLE" 0x0B, hostTableRow "MEDIAN" 0x0C, hostTableRow "NEXT_WAKE_DELAY" 0x0D]

theorem Instr.row_mem_tableRows (i : Instr) : i.row ∈ tableRows := by
  cases i <;> simp [Instr.row, tableRows]

/-- No two different rows of the table agree: one of the bits that both fix tells them apart (R69). -/
theorem tableRows_disagree : tableRows.Pairwise (fun r r' => ¬ r.agrees r' = true) := by
  decide

/-- Two rows of the table that one word fits are the same row. -/
theorem TableRow.eq_of_fits {r r' : TableRow} {word : List Byte} (hr : r ∈ tableRows) (hr' : r' ∈ tableRows)
    (h : r.fits word = true) (h' : r'.fits word = true) : r = r' := by
  by_contra hne
  have : Std.Symm fun a b : TableRow => ¬ a.agrees b = true := ⟨fun a b hab => by rwa [TableRow.agrees_comm]⟩
  exact tableRows_disagree.forall hr hr' hne (TableRow.agrees_of_fits h h')

/-- Settles O48: what is read is of the row read, and two different rows fix some bit differently. -/
theorem decodedWordsAreOfOneRow : Obligations.DecodedWordsAreOfOneRow := by
  refine ⟨fun word i h => ?_, fun word i j hi hj => ?_⟩
  · obtain ⟨_, hread⟩ := readInstr_of_decode h
    exact Decode.fits_of_readInstr hread
  · exact TableRow.eq_of_fits i.row_mem_tableRows j.row_mem_tableRows hi hj

end Sys2Proof

namespace Sys2Proof.Machine

/-! ## Encoding: requests, the command frame, and the rows that carry one (R55 to R69) -/

/-! ### The request a step runs (R67, R68) -/

theorem step_of_decode_ok {s : State} {word : List Byte} {rest : List (List Byte)} {i : Instr}
    (hs : s.requests = word :: rest) (hw : decode word = .ok i) : step s = exec i (s.setRequests rest) := by
  simp [step, hs, hw]

theorem step_of_decode_error {s : State} {word : List Byte} {rest : List (List Byte)} {why : Reject}
    (hs : s.requests = word :: rest) (hw : decode word = .error why) : step s = .refused (.undecodable why) := by
  simp [step, hs, hw]

theorem decode_of_decodeTableWord {nbits w : Nat} {i : Instr} (h : decodeTableWord nbits w = some i) :
    decode (tableBytes nbits w) = .ok i := by
  unfold decodeTableWord at h
  split at h
  · rename_i hj
    rw [hj, Option.some.inj h]
  · cases h

/-- Settles O46: a step is decided by the first request and what it decodes to. -/
theorem stepRunsTheDecodedRequest : Obligations.StepRunsTheDecodedRequest := by
  refine fun s => ⟨fun hs => ?_, fun word rest i => step_of_decode_ok, fun word rest why => step_of_decode_error,
    fun nbits w i h => ?_⟩
  · simp [step, hs]
  · exact step_of_decode_ok (s := s.withFetchWord nbits w) rfl (decode_of_decodeTableWord h)

/-! ### The checksum of a command frame (R56) -/

/-- A padded payload has the sum of the payload (R57). -/
theorem sum_pad12 (p : List Byte) : ((pad12 p).map BitVec.toNat).sum = (p.map BitVec.toNat).sum := by
  simp [pad12]

theorem commandBytes_checksum {f : CommandFields} (hf : f.payload.length = payloadMax) (id : CmdId) :
    (commandBytes id f).getD 17 0 = f.checksum := by
  rw [payloadMax] at hf
  simp [commandBytes, hf]

/-- Bytes 2 to 16 are the command id, the payload field and the destination (R55). -/
theorem commandBytes_covered {f : CommandFields} (hf : f.payload.length = payloadMax) (id : CmdId) :
    ((commandBytes id f).drop 2).take 15 = cmdIdByte id :: (f.payload ++ [f.dest0, f.dest1]) := by
  rw [payloadMax] at hf
  simp [commandBytes, List.take_append, hf]

/-- ENCODE_COMMAND of a payload of at most 12 bytes answers its frame (R77). -/
theorem exec_encodeCommand (id : CmdId) {p : List Byte} (hp : p.length ≤ payloadMax) (s : State) :
    exec (.encodeCommand id p) s =
      .next ((s.setTxFrame (commandFrame s.cfg id p)).setOutput (.command (commandFrame s.cfg id p)) .ok) := by
  rw [exec, execEncodeCommand, encodeFrame_ok s.cfg id p hp]
  rfl

/-- Settles O2: byte 17 is the checksum of the bytes it covers, and padding adds nothing to the sum. -/
theorem commandChecksumCoversIdPayloadDestination : Obligations.CommandChecksumCoversIdPayloadDestination := by
  intro id p s hp
  have hq := pad12_length p hp
  have checksum : (commandFrame s.cfg id p).getD 17 0 = cmdChecksum id (pad12 p) s.cfg.dest0 s.cfg.dest1 :=
    commandBytes_checksum hq id
  refine ⟨_, _, exec_encodeCommand id hp s, rfl, rfl, ?_, fun h0 h1 => ?_⟩
  · rw [checksum, commandFrame, commandBytes_covered hq]
    rfl
  · have h255 : BitVec.toNat (0xFF : Byte) = 255 := rfl
    rw [checksum, h0, h1]
    simp only [cmdChecksum, sum8, BitVec.toNat_ofNat, List.map_cons, List.map_append, List.map_nil, List.sum_cons,
      List.sum_append, List.sum_nil, sum_pad12, h255]
    omega

/-! ### A row and the operation that sends its frame (R69, R94) -/

/-- A padded payload is its own padding (R57). -/
theorem pad12_pad12 {p : List Byte} (hp : p.length ≤ payloadMax) : pad12 (pad12 p) = pad12 p := by
  rw [pad12, pad12_length p hp, Nat.sub_self, List.replicate_zero, List.append_nil]

/-- A payload and the same payload padded give one frame, so their round trips are one (R57, R94). -/
theorem roundTrip_pad12 (id : CmdId) {p : List Byte} (hp : p.length ≤ payloadMax) (s : State) :
    roundTrip id (pad12 p) s = roundTrip id p s := by
  have frame : commandFrame s.cfg id (pad12 p) = commandFrame s.cfg id p := by
    rw [commandFrame, commandFrame, pad12_pad12 hp]
  rw [roundTrip_eq id p s hp, roundTrip_eq id _ s (pad12_length p hp).le, frame]

theorem modeCommand_pad12 {p : List Byte} (hp : p.length ≤ payloadMax) (mode : Option Bool) (s : State) :
    modeCommand (pad12 p) mode s = modeCommand p mode s := by
  rw [modeCommand, modeCommand, roundTrip_pad12 _ hp]

theorem sleepCommand_pad12 {p : List Byte} (hp : p.length ≤ payloadMax) (sleep : Option Bool) (s : State) :
    sleepCommand (pad12 p) sleep s = sleepCommand p sleep s := by
  rw [sleepCommand, sleepCommand, roundTrip_pad12 _ hp]

theorem queryCommand_pad12 {p : List Byte} (hp : p.length ≤ payloadMax) (s : State) :
    queryCommand (pad12 p) s = queryCommand p s := by
  rw [queryCommand, queryCommand, roundTrip_pad12 _ hp]

theorem echoCommand_pad12 (id : CmdId) {p : List Byte} (hp : p.length ≤ payloadMax) (s : State) :
    echoCommand id (pad12 p) s = echoCommand id p s := by
  rw [echoCommand, echoCommand, roundTrip_pad12 _ hp]

/-- The padded payload of an operand stands for that operand where the two payloads differ (log entry 8). -/
theorem operandOf_pad12 {ifTrue ifFalse : List Byte} (h : pad12 ifTrue ≠ pad12 ifFalse) (b : Bool) :
    operandOf ifTrue ifFalse (pad12 (if b then ifTrue else ifFalse)) = some b := by
  cases b with
  | false => simp [operandOf, h.symm]
  | true => simp [operandOf, h]

theorem exec_cmdModeSet_eq {f : CommandFields} {s : State} (hs : ConfigLegal s) {b : Bool}
    (hne : pad12 s.cfg.plModeActive ≠ pad12 s.cfg.plModeQuery) (hf : f.payload = pad12 (modePayload s.cfg b)) :
    exec (.cmdModeSet f) s = exec (.setReportMode b) s := by
  have mode : operandOf s.cfg.plModeActive s.cfg.plModeQuery f.payload = some b := hf ▸ operandOf_pad12 hne b
  rw [exec, execCmdModeSet, mode, hf, modeCommand_pad12 (hs.modePayload b)]
  rfl

theorem exec_cmdSleep_eq {f : CommandFields} {s : State} (hs : ConfigLegal s) {b : Bool}
    (hne : pad12 s.cfg.plSleep ≠ pad12 s.cfg.plWake) (hf : f.payload = pad12 (sleepPayload s.cfg b)) :
    exec (.cmdSleep f) s = exec (.setSleep b) s := by
  have sleep : operandOf s.cfg.plSleep s.cfg.plWake f.payload = some b := hf ▸ operandOf_pad12 hne b
  rw [exec, execCmdSleep, sleep, hf, sleepCommand_pad12 (hs.sleepPayload b)]
  rfl

theorem exec_cmdDeviceId_eq {f : CommandFields} {s : State} (hs : ConfigLegal s) {k : Nat} {a : Vector Byte k}
    (hk : k ∈ s.cfg.plDeviceId.lengths) (hf : f.payload = pad12 (payloadOf s.cfg.plDeviceId a.toList)) :
    exec (.cmdDeviceId f) s = exec (.deviceId k a) s := by
  rw [exec, execCmdDeviceId, hf, echoCommand_pad12 _ (hs.deviceId _), ← execDeviceId_takes hk]
  rfl

/-- Settles O22: the row's round trip writes the operation's own frame, and the payload stands for its operand. -/
theorem frameRowsEqualTheirOperations : Obligations.FrameRowsEqualTheirOperations := by
  intro f s hs
  obtain ⟨_, _, _, _, query, firmware⟩ := hs.lengths
  refine ⟨fun b => exec_cmdModeSet_eq hs, fun b => exec_cmdSleep_eq hs, fun hf => ?_, fun hf => ?_, fun p hf => ?_,
    fun k a => exec_cmdDeviceId_eq hs⟩
  · rw [exec, execCmdQueryData, hf, queryCommand_pad12 query]
    rfl
  · rw [exec, execCmdFirmware, hf, echoCommand_pad12 _ firmware]
    rfl
  · rw [exec, execCmdWorkingPeriod, hf, echoCommand_pad12 _ (hs.workingPeriod p)]
    rfl

end Sys2Proof.Machine

namespace Sys2Proof.Machine

/-! ## The Frame Codec and the operations that only compute (R75 to R82, R115, R119) -/

/-! ### Checksums and 16-bit values (R59, R60, R77) -/

/-- The checksum of a command counts the payload once: its padding adds nothing (R56, R57). -/
theorem toNat_cmdChecksum_pad12 (id : CmdId) (p : List Byte) (dest0 dest1 : Byte) :
    (cmdChecksum id (pad12 p) dest0 dest1).toNat =
      ((cmdIdByte id).toNat + (p.map BitVec.toNat).sum + dest0.toNat + dest1.toNat) % 256 := by
  simp [cmdChecksum, sum8, sum_pad12, Nat.add_assoc]

theorem eq_rspChecksum_iff (cs d0 d1 d2 d3 id0 id1 : Byte) :
    cs = rspChecksum d0 d1 d2 d3 id0 id1 ↔
      cs.toNat = (d0.toNat + d1.toNat + d2.toNat + d3.toNat + id0.toNat + id1.toNat) % 256 := by
  simp [← BitVec.toNat_inj, rspChecksum, sum8, Nat.add_assoc]

/-- Sixteen bits hold every pair of bytes: nothing is cut off (R60). -/
theorem toNat_le16 (lo hi : Byte) : (le16 lo hi).toNat = lo.toNat + 256 * hi.toNat := by
  have hlo := lo.isLt
  have hhi := hi.isLt
  rw [le16, BitVec.toNat_ofNat]
  omega

/-! ### The checks of DECODE_RESPONSE (R78, R133) -/

theorem checkBody_short {body : List Byte} (h : body.length < 9) : checkBody body = .error .truncated := by
  unfold checkBody
  split
  · simp only [List.length_cons] at h
    omega
  · rfl

theorem exists_nine_of_not_short {body : List Byte} (h : ¬ body.length < 9) :
    ∃ ty d0 d1 d2 d3 i0 i1 cs tl rest, body = ty :: d0 :: d1 :: d2 :: d3 :: i0 :: i1 :: cs :: tl :: rest := by
  obtain ⟨front, rest, rfl, hf⟩ : ∃ front rest, body = front ++ rest ∧ front.length = 9 :=
    ⟨body.take 9, body.drop 9, (List.take_append_drop 9 body).symm, by simp; omega⟩
  match front, hf with
  | [ty, d0, d1, d2, d3, i0, i1, cs, tl], _ => exact ⟨ty, d0, d1, d2, d3, i0, i1, cs, tl, rest, rfl⟩

/-- Settles O3: the body is too short, or it is nine bytes with the checks of R78 in their order. -/
theorem decodeResponseChecksInOrder : Obligations.DecodeResponseChecksInOrder := by
  intro body s
  by_cases h : body.length < 9
  · rw [if_pos h, exec, execDecodeResponse, checkBody_short h, loadBody, if_pos h]
    rfl
  · rw [if_neg h, exec, execDecodeResponse, loadBody, if_neg h]
    obtain ⟨ty, d0, d1, d2, d3, i0, i1, cs, tl, rest, rfl⟩ := exists_nine_of_not_short h
    have tail : (0xAB : Byte) = tailByte := rfl
    simp only [checkBody, ne_eq, eq_rspChecksum_iff, tail, List.getD_cons_succ, List.getD_cons_zero]
    split_ifs <;> rfl

/-! ### DECODE_MEASUREMENT (R79) -/

theorem toMeasurement_dataReport {f : ResponseFrame} (h : f.rtype = typeData) :
    toMeasurement f = .ok ⟨le16 f.d0 f.d1, le16 f.d2 f.d3⟩ := by
  simp [toMeasurement, h]

theorem toMeasurement_other {f : ResponseFrame} (h : f.rtype ≠ typeData) :
    toMeasurement f = .error .notDataReport := by
  simp [toMeasurement, h]

/-- Settles O4: the type decides between the two little-endian values and the failure. -/
theorem decodeMeasurementIsLittleEndian : Obligations.DecodeMeasurementIsLittleEndian := by
  refine fun f s => ⟨fun h => ?_, fun h => ?_⟩
  · refine ⟨⟨le16 f.d0 f.d1, le16 f.d2 f.d3⟩, toNat_le16 f.d0 f.d1, toNat_le16 f.d2 f.d3, ?_⟩
    rw [exec, execDecodeMeasurement, toMeasurement_dataReport h]
    rfl
  · rw [exec, execDecodeMeasurement, toMeasurement_other h]
    rfl

/-! ### The response frame rows (R58, R69) -/

/-- A row's word with the right checksum is a sealed frame: its tail is the row's own. -/
theorem checkBody_reportBody_sealed {f : ReportFields}
    (h : f.checksum = rspChecksum f.d0 f.d1 f.d2 f.d3 f.id0 f.id1) (rtype : Byte) :
    checkBody (reportBody rtype f) = .ok (sealedFrame rtype f.d0 f.d1 f.d2 f.d3 f.id0 f.id1) := by
  simp [reportBody, checkBody, sealedFrame, h]

theorem checkBody_reportBody_unsealed {f : ReportFields}
    (h : f.checksum ≠ rspChecksum f.d0 f.d1 f.d2 f.d3 f.id0 f.id1) (rtype : Byte) :
    checkBody (reportBody rtype f) = .error .badChecksum := by
  simp [reportBody, checkBody, h]

/-- Settles O5: a sealed frame of the row's type is a data report, and any other word fails the checksum. -/
theorem dataReportRowGivesItsMeasurement : Obligations.DataReportRowGivesItsMeasurement := by
  intro f s
  rw [ne_eq, ← eq_rspChecksum_iff]
  refine ⟨fun h => ?_, fun h => ?_⟩
  · refine ⟨⟨le16 f.d0 f.d1, le16 f.d2 f.d3⟩, toNat_le16 f.d0 f.d1, toNat_le16 f.d2 f.d3, ?_⟩
    simp only [exec, execDataReport, checkBody_reportBody_sealed h]
    rfl
  · simp only [exec, execDataReport, checkBody_reportBody_unsealed h]
    rfl

theorem mem_allCmdIds (id : CmdId) : id ∈ allCmdIds := by
  cases id <;> decide

/-- The echo check of a sealed frame of the echo type is the check of its first data byte (R96). -/
theorem echoOk_sealedFrame (cfg : Cfg) (d0 d1 d2 d3 id0 id1 : Byte) (id : CmdId) :
    echoOk cfg (some (sealedFrame typeEcho d0 d1 d2 d3 id0 id1)) id = true ↔
      cfg.echoIdCheck = false ∨ d0 = cmdIdByte id := by
  simp only [echoOk, Bool.and_eq_true, Bool.or_eq_true, Bool.not_eq_true', decide_eq_true_eq]
  exact and_iff_right rfl

/-- Settles O6: the answer is the filter of all command ids by the echo check. -/
theorem commandEchoRowChecksTheEcho : Obligations.CommandEchoRowChecksTheEcho := by
  intro f s
  rw [ne_eq, ← eq_rspChecksum_iff]
  refine ⟨fun h => ⟨allCmdIds.filter
    (echoOk s.cfg (some (sealedFrame typeEcho f.d0 f.d1 f.d2 f.d3 f.id0 f.id1))), fun id => ?_, ?_⟩, fun h => ?_⟩
  · rw [List.mem_filter, and_iff_right (mem_allCmdIds id), echoOk_sealedFrame]
  · simp only [exec, execCommandEcho, checkBody_reportBody_sealed h]
    rfl
  · simp only [exec, execCommandEcho, checkBody_reportBody_unsealed h]
    rfl

/-! ### ENCODE_COMMAND (R77) -/

theorem exec_encodeCommand_long (id : CmdId) {p : List Byte} (hp : payloadMax < p.length) (s : State) :
    exec (.encodeCommand id p) s = .next (s.setOutput .failed .constructionError) := by
  rw [exec, execEncodeCommand, encodeFrame_error s.cfg id p hp]
  rfl

/-- Settles O1: a payload that fits gives the command frame of CFG's destination, a longer one an error. -/
theorem encodeCommandBuildsTheFrame : Obligations.EncodeCommandBuildsTheFrame := by
  refine fun id p s => ⟨fun hp => ?_, fun hp => exec_encodeCommand_long id hp s⟩
  exact ⟨_, commandFrame s.cfg id p, toNat_cmdChecksum_pad12 id p s.cfg.dest0 s.cfg.dest1,
    by rw [List.append_assoc _ p]; rfl, commandFrame_length s.cfg id p hp, exec_encodeCommand id hp s⟩

/-! ### What the operations that only compute write (R75, R115, R119) -/

theorem encodeCommand_writes {id : CmdId} {p : List Byte} {s t : State}
    (h : exec (.encodeCommand id p) s = .next t) : t = { s with txFrame := t.txFrame, output := t.output } := by
  by_cases hp : p.length ≤ payloadMax
  · rw [exec_encodeCommand id hp] at h
    cases h
    rfl
  · rw [exec_encodeCommand_long id (by omega)] at h
    cases h
    rfl

/-- Every answer about a body leaves what `loadBody` leaves. -/
theorem loadBody_returns_writes {body : List Byte} {s t : State} {v : Value} {c : FailCode}
    (h : (loadBody body s).returns v c = .next t) : t = { s with rxFrame := t.rxFrame, output := t.output } := by
  rw [State.returns_next h, loadBody_frame]
  rfl

theorem decodeResponse_writes {body : List Byte} {s t : State} (h : exec (.decodeResponse body) s = .next t) :
    t = { s with rxFrame := t.rxFrame, output := t.output } := by
  rw [exec, execDecodeResponse] at h
  split at h
  · exact loadBody_returns_writes h
  · exact loadBody_returns_writes h

theorem dataReport_writes {f : ReportFields} {s t : State} (h : exec (.dataReport f) s = .next t) :
    t = { s with rxFrame := t.rxFrame, output := t.output } := by
  simp only [exec, execDataReport] at h
  split at h
  · exact loadBody_returns_writes h
  · split at h
    · exact loadBody_returns_writes h
    · exact loadBody_returns_writes h

theorem commandEcho_writes {f : ReportFields} {s t : State} (h : exec (.commandEcho f) s = .next t) :
    t = { s with rxFrame := t.rxFrame, output := t.output } := by
  simp only [exec, execCommandEcho] at h
  split at h
  · exact loadBody_returns_writes h
  · exact loadBody_returns_writes h

theorem returns_writes {s t : State} {v : Value} {c : FailCode} (h : s.returns v c = .next t) :
    t = { s with output := t.output } := by
  rw [State.returns_next h]
  rfl

theorem decodeMeasurement_writes {f : ResponseFrame} {s t : State} (h : exec (.decodeMeasurement f) s = .next t) :
    t = { s with output := t.output } := by
  rw [exec, execDecodeMeasurement] at h
  split at h
  · exact returns_writes h
  · exact returns_writes h

theorem median_writes {v : List Word16} {s t : State} (h : exec (.median v) s = .next t) :
    t = { s with output := t.output } := by
  rw [exec, execMedian] at h
  split at h
  · cases h
  · exact returns_writes h

theorem nextWakeDelay_writes {n : Rat} {s t : State} (h : exec (.nextWakeDelay n) s = .next t) :
    t = { s with output := t.output } := by
  rw [exec, execNextWakeDelay] at h
  split at h
  · cases h
  · exact returns_writes h

/-- Settles O38: ENCODE_COMMAND writes `tx_frame`, the checks of a body `rx_frame`, the rest neither. -/
theorem pureOperationsTouchNothingOutside : Obligations.PureOperationsTouchNothingOutside := by
  rintro i s t h (⟨id, p, rfl⟩ | ⟨b, rfl⟩ | ⟨f, rfl⟩ | ⟨f, rfl⟩ | ⟨f, rfl⟩ | ⟨v, rfl⟩ | ⟨n, rfl⟩)
  · rw [encodeCommand_writes h]
    exact ⟨rfl, rfl, rfl, rfl, rfl, fun hi => absurd rfl (hi id p), fun _ _ _ => rfl⟩
  · rw [decodeResponse_writes h]
    exact ⟨rfl, rfl, rfl, rfl, rfl, fun _ => rfl, fun hi _ _ => absurd rfl (hi b)⟩
  · rw [decodeMeasurement_writes h]
    exact ⟨rfl, rfl, rfl, rfl, rfl, fun _ => rfl, fun _ _ _ => rfl⟩
  · rw [dataReport_writes h]
    exact ⟨rfl, rfl, rfl, rfl, rfl, fun _ => rfl, fun _ hi _ => absurd rfl (hi f)⟩
  · rw [commandEcho_writes h]
    exact ⟨rfl, rfl, rfl, rfl, rfl, fun _ => rfl, fun _ _ hi => absurd rfl (hi f)⟩
  · rw [median_writes h]
    exact ⟨rfl, rfl, rfl, rfl, rfl, fun _ => rfl, fun _ _ _ => rfl⟩
  · rw [nextWakeDelay_writes h]
    exact ⟨rfl, rfl, rfl, rfl, rfl, fun _ => rfl, fun _ _ _ => rfl⟩

end Sys2Proof.Machine

namespace Sys2Proof.Machine

/-! ## The Device Session: one reception, one round trip, and what a command makes of the answer (R90 to R104) -/

/-! ### The bytes of a body that passes the checks (R58, R59, R78) -/

/-- The checks of R78 in their order, on the bytes by their places. -/
theorem checkBody_eq (body : List Byte) :
    checkBody body =
      if body.length < 9 then .error .truncated
      else if (body.getD 7 0).toNat ≠
          ((body.getD 1 0).toNat + (body.getD 2 0).toNat + (body.getD 3 0).toNat + (body.getD 4 0).toNat +
            (body.getD 5 0).toNat + (body.getD 6 0).toNat) % 256 then .error .badChecksum
      else if body.getD 8 0 ≠ 0xAB then .error .badTail
      else .ok ⟨body.getD 0 0, body.getD 1 0, body.getD 2 0, body.getD 3 0, body.getD 4 0, body.getD 5 0,
        body.getD 6 0, body.getD 7 0, body.getD 8 0⟩ := by
  by_cases h : body.length < 9
  · rw [if_pos h, checkBody_short h]
  · rw [if_neg h]
    obtain ⟨ty, d0, d1, d2, d3, i0, i1, cs, tl, rest, rfl⟩ := exists_nine_of_not_short h
    have tail : (0xAB : Byte) = tailByte := rfl
    simp only [checkBody, ne_eq, eq_rspChecksum_iff, tail, List.getD_cons_succ, List.getD_cons_zero]

/-- A body of at most nine bytes passes the checks exactly where it is a frame's nine, well sealed. -/
theorem checkBody_eq_ok_iff {body : List Byte} (h9 : body.length ≤ 9) {f : ResponseFrame} :
    checkBody body = .ok f ↔
      body = frameBody f ∧ f.checksum = rspChecksum f.d0 f.d1 f.d2 f.d3 f.id0 f.id1 ∧ f.tail = tailByte := by
  constructor
  · intro h
    by_cases hs : body.length < 9
    · rw [checkBody_short hs] at h
      cases h
    · obtain ⟨ty, d0, d1, d2, d3, i0, i1, cs, tl, rest, rfl⟩ := exists_nine_of_not_short hs
      obtain rfl : rest = [] := List.eq_nil_of_length_eq_zero (by simp only [List.length_cons] at h9; omega)
      simp only [checkBody] at h
      split_ifs at h with hcs htl
      cases h
      exact ⟨rfl, not_not.mp hcs, not_not.mp htl⟩
  · rintro ⟨rfl, hcs, htl⟩
    simp only [frameBody, checkBody, ← hcs, ← htl, ne_eq, not_true_eq_false, if_false]

/-- A sealed frame passes the checks. -/
theorem checkBody_sealedFrame (rtype d0 d1 d2 d3 i0 i1 : Byte) :
    checkBody (frameBody (sealedFrame rtype d0 d1 d2 d3 i0 i1)) = .ok (sealedFrame rtype d0 d1 d2 d3 i0 i1) :=
  (checkBody_eq_ok_iff le_rfl).mpr ⟨rfl, rfl, rfl⟩

theorem validEcho_sealedFrame {cfg : Cfg} {n d0 : Byte} (h : cfg.echoIdCheck = true → d0 = n)
    (d1 d2 d3 i0 i1 : Byte) : ValidEcho cfg n (.ok (sealedFrame 0xC5 d0 d1 d2 d3 i0 i1)) :=
  ⟨_, rfl, rfl, h⟩

/-- A body is a valid echo byte by byte exactly where the checks make one of it (R78, R96). -/
theorem sealedEcho_iff_validEcho {cfg : Cfg} {n : Byte} {body : List Byte} (h9 : body.length ≤ 9) :
    SealedEcho cfg n body ↔ ValidEcho cfg n (checkBody body) := by
  constructor
  · rintro ⟨d0, d1, d2, d3, i0, i1, cs, rfl, hcs, hid⟩
    obtain rfl := (eq_rspChecksum_iff cs d0 d1 d2 d3 i0 i1).mpr hcs
    exact ⟨_, checkBody_sealedFrame 0xC5 d0 d1 d2 d3 i0 i1, rfl, hid⟩
  · rintro ⟨⟨rtype, d0, d1, d2, d3, i0, i1, cs, tl⟩, hf, rfl, hid⟩
    obtain ⟨rfl, hcs, rfl⟩ := (checkBody_eq_ok_iff h9).mp hf
    exact ⟨d0, d1, d2, d3, i0, i1, cs, rfl, (eq_rspChecksum_iff cs d0 d1 d2 d3 i0 i1).mp hcs, hid⟩

theorem not_validEcho_error (cfg : Cfg) (n : Byte) (c : FailCode) : ¬ ValidEcho cfg n (.error c) := by
  rintro ⟨f, h, _⟩
  cases h

/-- The body that arrives is what a 9-byte read was answered with (R32). -/
theorem FrameArrives.body_length {cfg : Cfg} {e e' : Env} {noise body : List Byte}
    (h : FrameArrives cfg e noise body e') : body.length ≤ 9 := by
  obtain ⟨f, _, _, hbody, _⟩ := (answered_append _ _ _ _).mp h.1
  rw [hbody]
  exact Env.read_length_le _ 9

/-! ### RECEIVE_FRAME (R92) -/

/-- Settles O7: RECEIVE_FRAME returns where its scan ends, and what it shows does not look at the output. -/
theorem receiveFrameShowsOneReception : Obligations.ReceiveFrameShowsOneReception := by
  intro s he
  obtain ⟨r, u, hr⟩ := receive_returns s he
  obtain ⟨evs, hrec, hrcv, hs, _⟩ := receive_shows hr
  refine ⟨evs, r, u.setOutput (receivedOutput r).1 (receivedOutput r).2, ?_, hrec, hrcv.write _ _, hs, ?_⟩
  · rw [exec, execReceiveFrame, hr]
    rfl
  · cases r <;> rfl

/-- Settles O8: a frame that waits behind noise is received with every effect known. -/
theorem receiveFrameFindsTheFrameBehindNoise : Obligations.ReceiveFrameFindsTheFrameBehindNoise := by
  intro s noise body rest h
  rw [exec, execReceiveFrame, receive_waits s noise body rest h]
  cases checkBody body <;> rfl

/-- Settles O51: a body that arrives is judged byte by byte, and a header that is missed is NO_HEADER. -/
theorem receiveFrameFollowsItsAnswers : Obligations.ReceiveFrameFollowsItsAnswers := by
  refine ⟨fun s noise body e h => ?_, fun s noise evs e h => execReceiveFrame_missed h⟩
  rw [exec, execReceiveFrame, receive_arrives s noise body e h, checkBody_eq body]
  split_ifs <;> rfl

/-! ### A round trip and its echo (R94, R96) -/

/-- A round trip keeps CFG, so its echo is judged by the CFG before it (R96). -/
theorem echoOk_iff_of_roundTrip {id : CmdId} {p : List Byte} {s t : State} {r : Except FailCode ResponseFrame}
    (h : roundTrip id p s = .done r t) :
    echoOk t.cfg (frameOf r) id = true ↔ ValidEcho s.cfg (cmdIdByte id) r := by
  obtain ⟨_, _, _, hc, _⟩ := roundTrip_shows h
  rw [hc.cfg, echoOk_iff]

/-- The round trip whose valid echo waits. -/
theorem roundTrip_waitingEcho {id : CmdId} {p : List Byte} {s : State} {noise rest : List Byte}
    {d0 d1 d2 d3 i0 i1 : Byte} (hp : p.length ≤ payloadMax)
    (h : FrameWaits s noise (frameBody (sealedFrame 0xC5 d0 d1 d2 d3 i0 i1)) rest) :
    roundTrip id p s = .done (.ok (sealedFrame 0xC5 d0 d1 d2 d3 i0 i1))
      { s with
        env := { s.env with inBuf := rest, outBuf := s.env.outBuf ++ commandFrame s.cfg id p }
        trace := s.trace ++ .write (commandFrame s.cfg id p) ::
          (scanEvents noise ++ [.read 1 [header], .read 9 (frameBody (sealedFrame 0xC5 d0 d1 d2 d3 i0 i1))])
        txFrame := commandFrame s.cfg id p
        rx := ⟨.idle, noise.length, 9⟩
        rxFrame := header :: frameBody (sealedFrame 0xC5 d0 d1 d2 d3 i0 i1) } := by
  rw [roundTrip_waits id p s noise _ rest hp h, checkBody_sealedFrame]

/-! ### The set commands (R97, R98) -/

/-- A command that on a valid echo, and only then, writes the session: SET_REPORT_MODE, SET_SLEEP and their frame
rows are of this form (`modeCommand_eq`, `sleepCommand_eq`). -/
def setCommand (id : CmdId) (after : Session → Session) (p : List Byte) (s : State) : Run Bool :=
  (roundTrip id p s).andThen fun r t =>
    if echoOk t.cfg (frameOf r) id then .done true { t with session := after t.session } else .done false t

theorem modeCommand_eq (p : List Byte) (mode : Option Bool) (s : State) :
    modeCommand p mode s = setCommand .modeSet (sessionAfterMode · true mode) p s := by
  cases mode <;> rfl

theorem sleepCommand_eq (p : List Byte) (sleep : Option Bool) (s : State) :
    sleepCommand p sleep s = setCommand .sleep (sessionAfterSleep · true sleep) p s := by
  cases sleep <;> rfl

theorem exec_setReportMode_eq (b : Bool) (s : State) :
    exec (.setReportMode b) s =
      (setCommand .modeSet (sessionAfterMode · true (some b)) (modePayload s.cfg b) s).returns flagOutput := by
  rw [← modeCommand_eq]
  rfl

theorem exec_setSleep_eq (b : Bool) (s : State) :
    exec (.setSleep b) s =
      (setCommand .sleep (sessionAfterSleep · true (some b)) (sleepPayload s.cfg b) s).returns flagOutput := by
  rw [← sleepCommand_eq]
  rfl

section SetCommand
variable {id : CmdId} {after : Session → Session} {p : List Byte} {s : State}

/-- On a valid echo a set command writes the session and answers true. -/
theorem setCommand_accepted {t : State} {r : Except FailCode ResponseFrame} (h : roundTrip id p s = .done r t)
    (hv : ValidEcho s.cfg (cmdIdByte id) r) :
    (setCommand id after p s).returns flagOutput =
      .next { t with session := after t.session, output := some ⟨.flag true, .ok⟩ } := by
  rw [setCommand, h, Run.andThen_done_eq, if_pos ((echoOk_iff_of_roundTrip h).mpr hv)]
  rfl

/-- Without a valid echo a set command writes no session and answers false. -/
theorem setCommand_rejected {t : State} {r : Except FailCode ResponseFrame} (h : roundTrip id p s = .done r t)
    (hv : ¬ ValidEcho s.cfg (cmdIdByte id) r) :
    (setCommand id after p s).returns flagOutput = .next { t with output := some ⟨.flag false, .echoInvalid⟩ } := by
  rw [setCommand, h, Run.andThen_done_eq, if_neg (mt (echoOk_iff_of_roundTrip h).mp hv)]
  rfl

/-- A set command returns wherever the scan after its write ends, and its answer follows the echo. -/
theorem setCommand_follows (hp : p.length ≤ payloadMax) (he : ScanEnds s.cfg (s.env.write (commandFrame s.cfg id p))) :
    ∃ (evs : List Event) (r : Except FailCode ResponseFrame) (t : State),
      (setCommand id after p s).returns flagOutput = .next t ∧ Reception s.cfg evs r ∧ Commanded id p evs s t ∧
      (ValidEcho s.cfg (cmdIdByte id) r → t.session = after s.session ∧ t.output = some ⟨.flag true, .ok⟩) ∧
      (¬ ValidEcho s.cfg (cmdIdByte id) r → t.session = s.session ∧ t.output = some ⟨.flag false, .echoInvalid⟩) := by
  obtain ⟨r, t, hr⟩ := roundTrip_returns id p s hp he
  obtain ⟨_, evs, hrec, hc, hs, _⟩ := roundTrip_shows hr
  by_cases hv : ValidEcho s.cfg (cmdIdByte id) r
  · exact ⟨evs, r, _, setCommand_accepted hr hv, hrec, hc.write _ _, fun _ => ⟨congrArg after hs, rfl⟩,
      fun h => absurd hv h⟩
  · exact ⟨evs, r, _, setCommand_rejected hr hv, hrec, hc.write t.session _, fun h => absurd h hv,
      fun _ => ⟨hs, rfl⟩⟩

/-- A set command whose answer arrives, whatever the line does, every effect. -/
theorem setCommand_arrives {noise body : List Byte} {e : Env} (hp : p.length ≤ payloadMax)
    (h : FrameArrives s.cfg (s.env.write (commandFrame s.cfg id p)) noise body e) :
    (SealedEcho s.cfg (cmdIdByte id) body →
      (setCommand id after p s).returns flagOutput = .next { roundTripped s id p noise body e with
        session := after s.session, output := some ⟨.flag true, .ok⟩ }) ∧
    (¬ SealedEcho s.cfg (cmdIdByte id) body →
      (setCommand id after p s).returns flagOutput = .next { roundTripped s id p noise body e with
        output := some ⟨.flag false, .echoInvalid⟩ }) := by
  have hr := roundTrip_arrives id p s noise body e hp h
  rw [sealedEcho_iff_validEcho h.body_length]
  exact ⟨setCommand_accepted hr, setCommand_rejected hr⟩

/-- A set command that meets no header, whatever the line does, every effect. -/
theorem setCommand_missed {noise : List Byte} {evs : List Event} {e : Env} (hp : p.length ≤ payloadMax)
    (h : HeaderMissed s.cfg (s.env.write (commandFrame s.cfg id p)) noise evs e) :
    (setCommand id after p s).returns flagOutput = .next { roundTripMissed s id p noise evs e with
      output := some ⟨.flag false, .echoInvalid⟩ } :=
  setCommand_rejected (roundTrip_missed id p s noise evs e hp h) (not_validEcho_error _ _ _)

end SetCommand

/-- Settles O11: SET_REPORT_MODE is the set command of its payload. -/
theorem setReportModeFollowsTheEcho : Obligations.SetReportModeFollowsTheEcho := by
  intro active s hl he
  rw [exec_setReportMode_eq]
  exact setCommand_follows (hl.modePayload active) he

/-- Settles O12: SET_SLEEP is the set command of its payload. -/
theorem setSleepFollowsTheEcho : Obligations.SetSleepFollowsTheEcho := by
  intro sleep s hl he
  rw [exec_setSleep_eq]
  exact setCommand_follows (hl.sleepPayload sleep) he

/-- Settles O20: the two frame rows are set commands of the payload they carry. -/
theorem setFrameRowsFollowTheEcho : Obligations.SetFrameRowsFollowTheEcho := by
  refine fun f s hf => ⟨fun he => ?_, fun he => ?_⟩
  · rw [exec, execCmdModeSet, modeCommand_eq]
    exact setCommand_follows hf.le he
  · rw [exec, execCmdSleep, sleepCommand_eq]
    exact setCommand_follows hf.le he

/-- Settles O15: the waiting frame is a valid echo, which the set command accepts. -/
theorem setCommandsSucceedOnAWaitingEcho : Obligations.SetCommandsSucceedOnAWaitingEcho := by
  refine fun s noise rest d0 d1 d2 d3 i0 i1 b hl hw => ⟨fun hid => ?_, fun hid => ?_⟩
  · rw [exec_setReportMode_eq]
    exact setCommand_accepted (roundTrip_waitingEcho (hl.modePayload b) hw) (validEcho_sealedFrame hid ..)
  · rw [exec_setSleep_eq]
    exact setCommand_accepted (roundTrip_waitingEcho (hl.sleepPayload b) hw) (validEcho_sealedFrame hid ..)

/-- Settles O52: both set commands judge the body that arrives, and fail where no header is met. -/
theorem setCommandsJudgeWhatArrives : Obligations.SetCommandsJudgeWhatArrives := by
  refine ⟨fun s noise body e b hl => ⟨?_, ?_⟩, fun s noise evs e b hl => ⟨?_, ?_⟩⟩
  · rintro _ rfl h
    rw [exec_setReportMode_eq]
    exact setCommand_arrives (hl.modePayload b) h
  · rintro _ rfl h
    rw [exec_setSleep_eq]
    exact setCommand_arrives (hl.sleepPayload b) h
  · rintro _ rfl h
    rw [exec_setReportMode_eq]
    exact setCommand_missed (hl.modePayload b) h
  · rintro _ rfl h
    rw [exec_setSleep_eq]
    exact setCommand_missed (hl.sleepPayload b) h

/-! ### QUERY (R99) -/

/-- A query-data command answers what is measured in its reception. -/
theorem queryCommand_done {p : List Byte} {s t : State} {r : Except FailCode ResponseFrame}
    (h : roundTrip .queryData p s = .done r t) :
    (queryCommand p s).returns queryOutput =
      .next (t.setOutput (queryOutput (measured r)).1 (queryOutput (measured r)).2) := by
  rw [queryCommand, h]
  cases r <;> rfl

/-- A query-data command returns wherever the scan after its write ends, and its answer follows the reception. -/
theorem queryCommand_follows {p : List Byte} {s : State} (hp : p.length ≤ payloadMax)
    (he : ScanEnds s.cfg (s.env.write (commandFrame s.cfg .queryData p))) :
    ∃ (evs : List Event) (r : Except FailCode ResponseFrame) (t : State),
      (queryCommand p s).returns queryOutput = .next t ∧ Reception s.cfg evs r ∧ Commanded .queryData p evs s t ∧
      t.session = s.session ∧
      (∀ c, r = .error c → t.output = some ⟨.queried none, c⟩) ∧
      (∀ f, r = .ok f → f.rtype ≠ 0xC0 → t.output = some ⟨.queried none, .notDataReport⟩) ∧
      (∀ f, r = .ok f → f.rtype = 0xC0 → ∃ m : Measurement,
        m.pm25Raw.toNat = f.d0.toNat + 256 * f.d1.toNat ∧ m.pm10Raw.toNat = f.d2.toNat + 256 * f.d3.toNat ∧
        t.output = some ⟨.queried (some m), .ok⟩) := by
  obtain ⟨r, t, hr⟩ := roundTrip_returns .queryData p s hp he
  obtain ⟨_, evs, hrec, hc, hs, _⟩ := roundTrip_shows hr
  refine ⟨evs, r, _, queryCommand_done hr, hrec, hc.write t.session _, hs, ?_, ?_, ?_⟩
  · rintro c rfl
    rfl
  · rintro f rfl hf
    rw [measured, toMeasurement_other hf]
    rfl
  · rintro f rfl hf
    rw [measured, toMeasurement_dataReport hf]
    exact ⟨_, toNat_le16 f.d0 f.d1, toNat_le16 f.d2 f.d3, rfl⟩

/-- Settles O13: QUERY is the query-data command of CFG's payload. -/
theorem queryReturnsTheReport : Obligations.QueryReturnsTheReport := by
  intro s hl he
  obtain ⟨_, _, _, _, hp, _⟩ := hl.lengths
  exact queryCommand_follows hp he

/-- Settles O16: the waiting frame passes the checks and is of the data report's type. -/
theorem queryAnswersAWaitingReport : Obligations.QueryAnswersAWaitingReport := by
  intro s noise rest d0 d1 d2 d3 i0 i1 hl hw
  obtain ⟨_, _, _, _, hp, _⟩ := hl.lengths
  have hr := roundTrip_waits .queryData s.cfg.plQuery s noise _ rest hp hw
  rw [checkBody_sealedFrame] at hr
  exact ⟨⟨le16 d0 d1, le16 d2 d3⟩, toNat_le16 d0 d1, toNat_le16 d2 d3, queryCommand_done hr⟩

/-- Settles O53: the checks of the body, then its type, in the order of R133. -/
theorem queryJudgesWhatArrives : Obligations.QueryJudgesWhatArrives := by
  refine ⟨fun s noise body e hl h => ?_, fun s noise evs e hl h => ?_⟩
  · obtain ⟨_, _, _, _, hp, _⟩ := hl.lengths
    refine ⟨⟨le16 (body.getD 1 0) (body.getD 2 0), le16 (body.getD 3 0) (body.getD 4 0)⟩, toNat_le16 _ _,
      toNat_le16 _ _, (queryCommand_done (roundTrip_arrives _ _ s noise body e hp h)).trans ?_⟩
    have data : (0xC0 : Byte) = typeData := rfl
    rw [checkBody_eq body, data]
    split_ifs with _ _ _ htype
    · rfl
    · rfl
    · rfl
    · rw [measured, toMeasurement_other htype]
      rfl
    · rw [measured, toMeasurement_dataReport (not_not.mp htype)]
      rfl
  · obtain ⟨_, _, _, _, hp, _⟩ := hl.lengths
    exact queryCommand_done (roundTrip_missed _ _ s noise evs e hp h)

/-! ### The raw echo commands (R100 to R102) -/

section EchoCommand
variable {id : CmdId} {p : List Byte} {s : State}

/-- A valid echo is the result. -/
theorem echoCommand_accepted {t : State} {f : ResponseFrame} (h : roundTrip id p s = .done (.ok f) t)
    (hv : ValidEcho s.cfg (cmdIdByte id) (.ok f)) :
    (echoCommand id p s).returns echoOutput = .next { t with output := some ⟨.received (some f), .ok⟩ } := by
  rw [echoCommand, h, Run.andThen_done_eq, if_pos ((echoOk_iff_of_roundTrip h).mpr hv)]
  rfl

/-- Without a valid echo the result is None with ECHO_INVALID. -/
theorem echoCommand_rejected {t : State} {r : Except FailCode ResponseFrame} (h : roundTrip id p s = .done r t)
    (hv : ¬ ValidEcho s.cfg (cmdIdByte id) r) :
    (echoCommand id p s).returns echoOutput = .next { t with output := some ⟨.received none, .echoInvalid⟩ } := by
  rw [echoCommand, h, Run.andThen_done_eq, if_neg (mt (echoOk_iff_of_roundTrip h).mp hv)]
  rfl

/-- A raw echo command returns wherever the scan after its write ends, and its answer follows the echo. -/
theorem echoCommand_follows (hp : p.length ≤ payloadMax)
    (he : ScanEnds s.cfg (s.env.write (commandFrame s.cfg id p))) :
    ∃ (evs : List Event) (r : Except FailCode ResponseFrame) (t : State),
      (echoCommand id p s).returns echoOutput = .next t ∧ Reception s.cfg evs r ∧ Commanded id p evs s t ∧
      t.session = s.session ∧
      (∀ f, r = .ok f → ValidEcho s.cfg (cmdIdByte id) r → t.output = some ⟨.received (some f), .ok⟩) ∧
      (¬ ValidEcho s.cfg (cmdIdByte id) r → t.output = some ⟨.received none, .echoInvalid⟩) := by
  obtain ⟨r, t, hr⟩ := roundTrip_returns id p s hp he
  obtain ⟨_, evs, hrec, hc, hs, _⟩ := roundTrip_shows hr
  by_cases hv : ValidEcho s.cfg (cmdIdByte id) r
  · have ⟨f, hf, _⟩ := hv
    subst hf
    exact ⟨evs, _, _, echoCommand_accepted hr hv, hrec, hc.write t.session _, hs,
      fun g hg _ => by cases hg; rfl, fun h => absurd hv h⟩
  · exact ⟨evs, r, _, echoCommand_rejected hr hv, hrec, hc.write t.session _, hs, fun _ _ h => absurd h hv,
      fun _ => rfl⟩

/-- The raw echo commands never refuse a legal payload. -/
theorem echoCommand_not_refused (hp : p.length ≤ payloadMax) (r : Refusal) :
    (echoCommand id p s).returns echoOutput ≠ .refused r := by
  by_cases he : ScanEnds s.cfg (s.env.write (commandFrame s.cfg id p))
  · obtain ⟨_, _, t, ht, _⟩ := echoCommand_follows hp he
    simp [ht]
  · simp [echoCommand, roundTrip_endless id p s hp he, Run.andThen, Run.returns]

end EchoCommand

/-- The operations whose result is their raw echo, each with its command id and its payload under this CFG. -/
inductive RawEcho (cfg : Cfg) : Instr → CmdId → List Byte → Prop where
  | workingPeriod (b : Byte) :
      RawEcho cfg (.setWorkingPeriod b) .workingPeriod (payloadOf cfg.plWorkingPeriod [b])
  | firmware : RawEcho cfg .readFirmware .firmware cfg.plFirmware
  | deviceId (k : Nat) (a : Vector Byte k) (h : k ∈ cfg.plDeviceId.lengths) :
      RawEcho cfg (.deviceId k a) .deviceId (payloadOf cfg.plDeviceId a.toList)

theorem RawEcho.exec_eq {i : Instr} {id : CmdId} {p : List Byte} {s : State} (h : RawEcho s.cfg i id p) :
    exec i s = (echoCommand id p s).returns echoOutput := by
  cases h with
  | workingPeriod b => rfl
  | firmware => rfl
  | deviceId k a hk => exact execDeviceId_takes hk

theorem RawEcho.payload_length {i : Instr} {id : CmdId} {p : List Byte} {s : State} (h : RawEcho s.cfg i id p)
    (hl : ConfigLegal s) : p.length ≤ payloadMax := by
  obtain ⟨_, _, _, _, _, firmware⟩ := hl.lengths
  cases h with
  | workingPeriod b => exact hl.workingPeriod b
  | firmware => exact firmware
  | deviceId k a _ => exact hl.deviceId a.toList

/-- The three operations as the statements list them, with the wire byte of the command id (R61). -/
theorem rawEcho_of_listed {cfg : Cfg} {i : Instr} {id : CmdId} {n : Byte} {p : List Byte}
    (h : (∃ b, i = .setWorkingPeriod b ∧ id = .workingPeriod ∧ n = 8 ∧ p = payloadOf cfg.plWorkingPeriod [b]) ∨
      (i = .readFirmware ∧ id = .firmware ∧ n = 7 ∧ p = cfg.plFirmware) ∨
      (∃ k a, i = .deviceId k a ∧ k ∈ cfg.plDeviceId.lengths ∧ id = .deviceId ∧ n = 5 ∧
        p = payloadOf cfg.plDeviceId a.toList)) :
    RawEcho cfg i id p ∧ n = cmdIdByte id := by
  obtain ⟨b, rfl, rfl, rfl, rfl⟩ | ⟨rfl, rfl, rfl, rfl⟩ | ⟨k, a, rfl, hk, rfl, rfl, rfl⟩ := h
  · exact ⟨.workingPeriod b, rfl⟩
  · exact ⟨.firmware, rfl⟩
  · exact ⟨.deviceId k a hk, rfl⟩

/-- Settles O14: each of the three is the raw echo command of its payload. -/
theorem rawEchoCommandsReturnTheEcho : Obligations.RawEchoCommandsReturnTheEcho := by
  intro i id n p s hl hi he
  obtain ⟨hraw, rfl⟩ := rawEcho_of_listed hi
  rw [hraw.exec_eq]
  exact echoCommand_follows (hraw.payload_length hl) he

/-- Settles O17: the waiting frame is a valid echo, which the raw echo command answers. -/
theorem rawEchoCommandsAnswerAWaitingEcho : Obligations.RawEchoCommandsAnswerAWaitingEcho := by
  intro i id p s noise rest d0 d1 d2 d3 i0 i1 hl hi hw hid
  have hraw : RawEcho s.cfg i id p := by
    obtain ⟨b, rfl, rfl, rfl⟩ | ⟨rfl, rfl, rfl⟩ | ⟨k, a, rfl, hk, rfl, rfl⟩ := hi
    · exact .workingPeriod b
    · exact .firmware
    · exact .deviceId k a hk
  rw [hraw.exec_eq]
  exact echoCommand_accepted (roundTrip_waitingEcho (hraw.payload_length hl) hw) (validEcho_sealedFrame hid ..)

/-- Settles O54: the body that arrives is a valid echo byte by byte or not, and a missed header is none. -/
theorem rawEchoCommandsJudgeWhatArrives : Obligations.RawEchoCommandsJudgeWhatArrives := by
  intro i id n p s noise e hl hi
  obtain ⟨hraw, rfl⟩ := rawEcho_of_listed hi
  have hp := hraw.payload_length hl
  rw [hraw.exec_eq]
  refine ⟨fun body h => ?_, fun evs h => ?_⟩
  · have hr := roundTrip_arrives id p s noise body e hp h
    rw [sealedEcho_iff_validEcho h.body_length]
    refine ⟨fun hv => ?_, echoCommand_rejected hr⟩
    have ⟨f, hf, _⟩ := hv
    obtain ⟨rfl, _⟩ := (checkBody_eq_ok_iff h.body_length).mp hf
    rw [hf] at hr hv
    exact echoCommand_accepted hr hv
  · exact echoCommand_rejected (roundTrip_missed id p s noise evs e hp h) (not_validEcho_error _ _ _)

/-- Settles O21: each row is its command with the payload the frame carries. -/
theorem otherFrameRowsAnswerTheirRule : Obligations.OtherFrameRowsAnswerTheirRule := by
  refine fun f s hf => ⟨queryCommand_follows hf.le, ?_⟩
  rintro i id n (⟨rfl, rfl, rfl⟩ | ⟨rfl, rfl, rfl⟩ | ⟨rfl, rfl, rfl⟩) he
  · exact echoCommand_follows hf.le he
  · exact echoCommand_follows hf.le he
  · exact echoCommand_follows hf.le he

/-- Settles O57: an argument of PL_DEVICE_ID has a legal payload, and anything else is refused. -/
theorem deviceIdTakesTheArgumentsOfItsPayload : Obligations.DeviceIdTakesTheArgumentsOfItsPayload := by
  refine fun n a s => ⟨execDeviceId_refuses, fun hl hn => ?_⟩
  have hp := hl.deviceId a.toList
  rw [(RawEcho.deviceId n a hn).exec_eq]
  refine ⟨echoCommand_not_refused hp, fun he => ?_⟩
  obtain ⟨evs, _, t, ht, _, hc, hs, _⟩ := echoCommand_follows hp he
  exact ⟨t, evs, ht, hc.trace, hs, hc.cfg⟩

/-! ### RESYNCHRONIZE (R104) -/

@[simp] theorem Env.advance_reopened (e : Env) : e.advance.reopened = e.reopened := by
  unfold Env.advance; split <;> rfl

/-- An advance sends some first bytes of the output buffer (R31). -/
theorem Env.advance_sends (e : Env) :
    ∃ k, e.advance.wire = e.wire ++ e.outBuf.take k ∧ e.advance.outBuf = e.outBuf.drop k := by
  unfold Env.advance
  split
  · exact ⟨0, by simp⟩
  · exact ⟨_, rfl, rfl⟩

/-- A reopen leaves in the buffers what the environment says (R35). -/
theorem Env.reopen_buffers (e : Env) : (e.reopen.inBuf, e.reopen.outBuf) = e.reopened.headD ([], []) := by
  unfold Env.reopen
  simp only [Env.advance_reopened]
  split <;> simp [*]

theorem Env.reopen_wire (e : Env) : e.reopen.wire = e.advance.wire := by
  unfold Env.reopen
  simp only
  split <;> rfl

/-- Of the bytes still to leave a first part leaves before ResetOut takes effect, and the reopen finds none. -/
theorem Env.resynchronize_wire (e : Env) :
    ∃ k, e.resetIn.resetOut.reopen.wire = e.wire ++ e.outBuf.take k := by
  obtain ⟨j, hwire, hout⟩ := e.advance_sends
  obtain ⟨k, hwire', _⟩ := e.resetIn.advance_sends
  obtain ⟨_, hwire'', _⟩ := e.resetIn.resetOut.advance_sends
  have sent : e.resetIn.resetOut.reopen.wire = e.advance.wire ++ e.advance.outBuf.take k := by
    rw [Env.reopen_wire, hwire'']
    simpa [Env.resetOut, Env.resetIn] using hwire'
  exact ⟨j + k, by rw [sent, hwire, hout, List.take_add, List.append_assoc]⟩

/-- Settles O18: the three events, and what each leaves of the environment. -/
theorem resynchronizeResetsAndReopens : Obligations.ResynchronizeResetsAndReopens := by
  intro s
  obtain ⟨k, hwire⟩ := s.env.resynchronize_wire
  refine ⟨s.env.resetIn.resetOut.reopen, k, ?_, ?_, hwire, ?_, ?_, ?_⟩
  · rw [exec, execResynchronize, resynchronize_eq]
    rfl
  · rw [Env.reopen_buffers]
    simp [Env.resetIn, Env.resetOut]
  · simp
  · simp
  · simp

/-! ### The table of R103 -/

/-- Outside the set commands, their frame rows and a cycle the session is kept. -/
theorem exec_keeps_session {i : Instr} {s t : State} (h : exec i s = .next t) (hcycle : i ≠ .runCycle)
    (hmode : ∀ b, i ≠ .setReportMode b) (hmodeSet : ∀ f, i ≠ .cmdModeSet f) (hsleep : ∀ b, i ≠ .setSleep b)
    (hcmdSleep : ∀ f, i ≠ .cmdSleep f) : t.session = s.session := by
  obtain ⟨_, mode, power⟩ := eachStateHasItsWriters i s t h hcycle
  obtain ⟨configured, reportMode⟩ := mode hmode hmodeSet
  have hpower := power hsleep hcmdSleep
  generalize t.session = x at configured reportMode hpower
  obtain ⟨_, _, _⟩ := x
  subst configured reportMode hpower
  rfl

/-- Settles O34: a set command's answer says whether it wrote, and the others are not writers of the session. -/
theorem sessionOperationsWriteOnlyTheTable : Obligations.SessionOperationsWriteOnlyTheTable := by
  refine fun s t => ⟨fun active h => ?_, fun sleep h => ?_, fun i hi h => ?_⟩
  · obtain ⟨ok, ho, hs⟩ := execSetReportMode_next h
    cases ok with
    | true => exact .inl ⟨ho, hs⟩
    | false => exact .inr ⟨ho, hs⟩
  · obtain ⟨ok, ho, hs⟩ := execSetSleep_next h
    cases ok with
    | true => exact .inl ⟨ho, hs⟩
    | false => exact .inr ⟨ho, hs⟩
  · rcases hi with rfl | rfl | ⟨p, rfl⟩ | rfl | ⟨k, a, rfl⟩ | rfl <;>
      exact exec_keeps_session h (by simp) (by simp) (by simp) (by simp) (by simp)

end Sys2Proof.Machine

namespace Sys2Proof.Machine

/-! ## The Sampler (R109 to R121) -/

/-! ### MEDIAN (R115, R117) -/

/-- Odd or even, the median is half the sum of the two places around the middle of the ordered values: for an odd
number the two places are one. -/
theorem medianOf_eq (v : List Nat) :
    medianOf v = (((v.insertionSort (· ≤ ·)).getD ((v.length - 1) / 2) 0 +
      (v.insertionSort (· ≤ ·)).getD (v.length / 2) 0 : Nat) : Rat) / 2 := by
  simp only [medianOf, List.length_insertionSort]
  split
  · rename_i odd
    rw [show (v.length - 1) / 2 = v.length / 2 by omega]
    push_cast
    ring
  · rename_i even
    rw [show (v.length - 1) / 2 = v.length / 2 - 1 by omega]
    push_cast
    rfl

/-- Two lists in another order have the same ordered values. -/
theorem medianOf_perm {v w : List Nat} (h : v.Perm w) : medianOf v = medianOf w := by
  have sorted : v.insertionSort (· ≤ ·) = w.insertionSort (· ≤ ·) :=
    ((List.perm_insertionSort _ v).trans (h.trans (List.perm_insertionSort _ w).symm)).eq_of_sortedLE
      List.sortedLE_insertionSort List.sortedLE_insertionSort
  rw [medianOf_eq, medianOf_eq, sorted, h.length_eq]

theorem exec_median {v : List Word16} (hv : v ≠ []) (s : State) :
    exec (.median v) s = s.returns (.rational (medianOf (v.map BitVec.toNat))) .ok :=
  if_neg (by simpa using hv)

/-- Settles O30: the list ordered by insertion is the permutation, and the parity says which places are the middle. -/
theorem medianIsTheMiddleOfTheOrderedValues : Obligations.MedianIsTheMiddleOfTheOrderedValues := by
  refine fun v s => ⟨fun hv => by rw [hv]; rfl, fun hv => ⟨medianOf (v.map BitVec.toNat),
    (v.map BitVec.toNat).insertionSort (· ≤ ·), List.perm_insertionSort _ _, List.pairwise_insertionSort _ _,
    exec_median hv s, fun k hk => ?_, fun k hk => ?_⟩⟩
  · rw [medianOf_eq, List.length_map, hk, show (2 * k + 1 - 1) / 2 = k by omega, show (2 * k + 1) / 2 = k by omega]
    push_cast
    ring
  · rw [medianOf_eq, List.length_map, hk, show (2 * (k + 1) - 1) / 2 = k by omega,
      show 2 * (k + 1) / 2 = k + 1 by omega]
    push_cast
    rfl

/-- Settles O31: the answer is the median, which the order does not change. -/
theorem medianIgnoresTheInputOrder : Obligations.MedianIgnoresTheInputOrder := by
  intro v w s h
  by_cases hv : v = []
  · subst hv
    rw [List.nil_perm.mp h]
  · have hw : w ≠ [] := fun hw => hv (by simpa [hw] using h)
    rw [exec_median hv, exec_median hw, medianOf_perm (h.map _)]

theorem getD_zero_le {v : List Nat} {b : Nat} (h : ∀ x ∈ v, x ≤ b) (i : Nat) : v.getD i 0 ≤ b := by
  rw [List.getD_eq_getElem?_getD]
  cases hi : v[i]? with
  | none => exact Nat.zero_le b
  | some x => exact h x (List.mem_of_getElem? hi)

/-- A concentration is half a sum of two raw values, divided by ten: a number of twentieths (R80, R117). -/
theorem medianOf_twentieths {v : List Nat} {b : Nat} (h : ∀ x ∈ v, x ≤ b) :
    ∃ q : Nat, q ≤ 2 * b ∧ medianOf v / 10 = (q : Rat) / 20 := by
  have bound := getD_zero_le fun x hx => h x ((List.perm_insertionSort (· ≤ ·) v).mem_iff.mp hx)
  refine ⟨_, (Nat.add_le_add (bound ((v.length - 1) / 2)) (bound (v.length / 2))).trans_eq (two_mul b).symm, ?_⟩
  rw [medianOf_eq, div_div]
  norm_num

/-- A whole number of twentieths is one of hundredths. -/
theorem round2_twentieths (q : Nat) : round2 ((q : Rat) / 20) = (q : Rat) / 20 := by
  have hundredths : ((q : Rat) / 20 * 100 + 1 / 2).floor = ((5 * q : Nat) : Int) := by
    refine Int.le_antisymm (Int.lt_add_one_iff.mp (Rat.floor_lt_iff.mpr ?_)) (Rat.le_floor_iff.mpr ?_) <;>
      push_cast <;> linarith
  rw [round2, hundredths]
  push_cast
  ring

/-- No median concentration is changed by its rounding (R117). -/
theorem round2_medianOf (v : List Nat) : round2 (medianOf v / 10) = medianOf v / 10 := by
  obtain ⟨q, _, hq⟩ := medianOf_twentieths (v := v) (b := v.sum) fun _ hx => List.le_sum_of_mem hx
  rw [hq, round2_twentieths]

/-- Settles O32: the raw values are below 2 ^ 16. -/
theorem mediansNeedNoRounding : Obligations.MediansNeedNoRounding := by
  refine fun v _ => ⟨round2_medianOf _, medianOf_twentieths (b := 65535) ?_⟩
  simp only [List.forall_mem_map]
  exact fun x _ => Nat.le_of_lt_succ x.isLt

/-! ### NEXT_WAKE_DELAY (R119) -/

/-- What is left of `n` lies below the period. -/
theorem ratMod_bounds {p : Rat} (hp : 0 < p) (n : Rat) : 0 ≤ ratMod n p ∧ ratMod n p < p := by
  have below : ((n / p).floor : Rat) * p ≤ n := (le_div_iff₀ hp).mp (Rat.floor_le (n / p))
  have above : n < ((n / p).floor + 1 : Int) * p := (div_lt_iff₀ hp).mp (Rat.lt_floor_add_one (n / p))
  push_cast at above
  unfold ratMod
  constructor <;> linarith

theorem ratMod_of_multiple {p : Rat} (hp : 0 < p) (k : Int) : ratMod (k * p) p = 0 := by
  have floor : ((k : Rat) * p / p).floor = k := by
    rw [mul_div_cancel_right₀ _ hp.ne']
    exact Rat.floor_intCast k
  rw [ratMod, floor]
  ring

theorem exec_nextWakeDelay {s : State} (hp : 0 < s.cfg.period) (n : Rat) :
    exec (.nextWakeDelay n) s = s.returns (.rational (wakeDelay s.cfg.period n)) .ok :=
  if_neg (Int.not_le.mpr (Rat.num_pos.mpr hp))

/-- Settles O33: the delay is the period less the remainder, so `n` and it make one period more than the quotient's. -/
theorem nextWakeDelayReachesTheNextMultiple : Obligations.NextWakeDelayReachesTheNextMultiple := by
  intro n s _ hp
  obtain ⟨nonneg, below⟩ := ratMod_bounds hp n
  refine ⟨wakeDelay s.cfg.period n, exec_nextWakeDelay hp n, by unfold wakeDelay; linarith,
    by unfold wakeDelay; linarith, ⟨(n / s.cfg.period).floor + 1, ?_⟩, ?_⟩
  · rw [wakeDelay, ratMod]
    push_cast
    ring
  · rintro ⟨k, hk⟩
    rw [wakeDelay, hk, ratMod_of_multiple hp, sub_zero]

/-! ### RUN_CYCLE (R110 to R119) -/

/-- A published value is the aggregate's own: its rounding changes nothing (R117). -/
theorem round2_sampleOf (ms : List Measurement) (now : Rat) :
    round2 (sampleOf ms now).pm10 = (sampleOf ms now).pm10 ∧ round2 (sampleOf ms now).pm25 = (sampleOf ms now).pm25 :=
  ⟨round2_medianOf _, round2_medianOf _⟩

theorem exec_runCycle {s : State} (hs : ConfigLegal s) : exec .runCycle s = (cycle s).returns cycleOutput := by
  have samples : s.cfg.nSamples ≠ 0 := Nat.one_le_iff_ne_zero.mp hs.nSamples
  have period : ¬ s.cfg.period.num ≤ 0 := Int.not_le.mpr hs.period
  rw [exec, execRunCycle, if_neg samples, if_neg period]

/-- A RUN_CYCLE that answers a next state ran its procedure to the end, which left the output to be set (R130). -/
theorem exec_runCycle_shows {s t : State} (h : exec .runCycle s = .next t) :
    ∃ e1 e2 er e3 r1 r2 r3 ms aborted u, Cycled e1 e2 er e3 r1 r2 r3 ms aborted s u ∧
      t = { u with output := some (if aborted then ⟨.cycle none, .incompleteBatch⟩
        else ⟨.cycle (some (sampleOf ms s.env.clockAnswer)), .ok⟩) } := by
  obtain ⟨a, u, hu, rfl⟩ := Run.returns_next (execRunCycle_next h).2
  obtain ⟨e1, e2, er, e3, r1, r2, r3, ms, aborted, cycled, rfl⟩ := cycle_shows hu
  refine ⟨e1, e2, er, e3, r1, r2, r3, ms, aborted, u, cycled, ?_⟩
  cases aborted <;> rfl

/-- Settles O23: a legal cycle returns or meets a scan that never ends; one that returns shows its five steps. -/
theorem runCycleRefinesItsFiveSteps : Obligations.RunCycleRefinesItsFiveSteps := by
  refine ⟨fun s hs => ?_, fun s t h => ?_⟩
  · rw [exec_runCycle hs]
    obtain ⟨a, t, ht⟩ | ⟨hf, hl⟩ := cycle_outcomes s hs
    · have returns : ∃ t, (cycle s).returns cycleOutput = .next t := ⟨_, by rw [ht, Run.returns_done]⟩
      exact ⟨fun _ => returns, .inl returns⟩
    · exact ⟨fun settles => absurd settles hl, .inr (by rw [hf]; rfl)⟩
  · obtain ⟨e1, e2, er, e3, r1, r2, r3, ms, aborted, u, cycled, rfl⟩ := exec_runCycle_shows h
    have moves := cycled.moves
    rw [(round2_sampleOf ms s.env.clockAnswer).1, (round2_sampleOf ms s.env.clockAnswer).2] at moves
    exact ⟨e1, e2, er, e3, _, r1, r2, r3, _, _, _, ms, aborted, cycled.first, cycled.second, cycled.rounds, cycled.last,
      echoOk_iff s.cfg r1 .sleep, echoOk_iff s.cfg r2 .modeSet, echoOk_iff s.cfg r3 .sleep, cycled.cfg, cycled.requests,
      cycled.session, cycled.sampler, moves.trace, rfl, cycled.txFrame, moves.rxFrame, rfl⟩

/-! ### What the rounds of a cycle show (R113) -/

theorem Reception.no_write {cfg : Cfg} {evs : List Event} {r : Except FailCode ResponseFrame}
    (h : Reception cfg evs r) : written evs = [] := h.silent.1

theorem Reception.no_reset {cfg : Cfg} {evs : List Event} {r : Except FailCode ResponseFrame}
    (h : Reception cfg evs r) : evs.filter isBufferReset = [] := h.silent.2.1

theorem Reception.no_publish {cfg : Cfg} {evs : List Event} {r : Except FailCode ResponseFrame}
    (h : Reception cfg evs r) : evs.filter isPublish = [] := h.silent.2.2.2.1

section
variable {cfg : Cfg} {k : Nat} {er : List Event} {ms : List Measurement} {aborted : Bool}

/-- One query per round: each good one, and the failed one if there is one. -/
theorem Rounds.written (h : Rounds cfg k er ms aborted) :
    written er = List.replicate (ms.length + if aborted then 1 else 0) (commandFrame cfg .queryData cfg.plQuery) := by
  induction h with
  | complete => rfl
  | good k evs rest f m ms aborted hr _ _ ih =>
    simp [written_append, Machine.written, hr.no_write, ih, Nat.succ_add, List.replicate_succ]
  | failed k evs r hr _ => simp [written_append, Machine.written, hr.no_write]

theorem Rounds.no_publish (h : Rounds cfg k er ms aborted) : er.filter isPublish = [] := by
  induction h with
  | complete => rfl
  | good k evs rest f m ms aborted hr _ _ ih => simp [hr.no_publish, ih, isPublish]
  | failed k evs r hr _ => simp [hr.no_publish, isPublish]

/-- Rounds of which one failed reset the buffers once, at their end (R135). -/
theorem Rounds.resets (h : Rounds cfg k er ms true) :
    er.filter isBufferReset = [.resetIn, .resetOut, .reopen] := by
  generalize hab : true = aborted at h
  induction h with
  | complete => cases hab
  | good k evs rest f m ms aborted hr _ _ ih => simp [hr.no_reset, ih hab, isBufferReset]
  | failed k evs r hr _ => simp [hr.no_reset, isBufferReset]

end

/-! ### What a whole cycle shows -/

section
variable {e1 e2 er e3 : List Event} {r1 r2 r3 : Except FailCode ResponseFrame} {ms : List Measurement}
  {aborted : Bool} {s t : State}

/-- The frames written: wake, mode, the rounds' queries, sleep (R112 to R114). -/
theorem Cycled.written (h : Cycled e1 e2 er e3 r1 r2 r3 ms aborted s t) :
    ∃ new, t.trace = s.trace ++ new ∧ Machine.written new =
      [commandFrame s.cfg .sleep s.cfg.plWake, commandFrame s.cfg .modeSet s.cfg.plModeQuery] ++
      List.replicate t.sampler.round (commandFrame s.cfg .queryData s.cfg.plQuery) ++
      [commandFrame s.cfg .sleep s.cfg.plSleep] := by
  refine ⟨_, h.moves.trace, ?_⟩
  rw [h.sampler]
  cases aborted <;>
    simp [written_append, Machine.written, h.first.no_write, h.second.no_write, h.last.no_write, h.rounds.written]

/-- The sink is called where no round failed, and nowhere else (R116, R118). -/
theorem Cycled.published (h : Cycled e1 e2 er e3 r1 r2 r3 ms aborted s t) :
    ∃ new, t.trace = s.trace ++ new ∧ new.filter isPublish = if aborted then [] else
      [.publish (sampleOf ms s.env.clockAnswer).pm10 (sampleOf ms s.env.clockAnswer).pm25] := by
  refine ⟨_, h.moves.trace, ?_⟩
  rw [(round2_sampleOf ms _).1, (round2_sampleOf ms _).2]
  simp only [List.filter_append, h.first.no_publish, h.second.no_publish, h.last.no_publish, h.rounds.no_publish]
  cases aborted <;> rfl

/-- Bytes are discarded where a round failed, once, and nowhere else (R113, R135). -/
theorem Cycled.resets (h : Cycled e1 e2 er e3 r1 r2 r3 ms aborted s t) :
    ∃ new, t.trace = s.trace ++ new ∧
      new.filter isBufferReset = if aborted then [.resetIn, .resetOut, .reopen] else [] := by
  refine ⟨_, h.moves.trace, ?_⟩
  simp only [List.filter_append, h.first.no_reset, h.second.no_reset, h.last.no_reset]
  cases aborted with
  | false => rw [h.rounds.no_reset]; rfl
  | true => rw [h.rounds.resets]; rfl

end

/-- Settles O25: the batch is complete exactly when no round failed, which is when the sink is called. -/
theorem cyclePublishesExactlyWhenComplete : Obligations.CyclePublishesExactlyWhenComplete := by
  intro s t h
  obtain ⟨e1, e2, er, e3, r1, r2, r3, ms, aborted, u, cycled, rfl⟩ := exec_runCycle_shows h
  obtain ⟨new, trace, publishes⟩ := cycled.published
  refine ⟨new, trace, ?_⟩
  simp only [cycled.sampler]
  cases aborted with
  | false =>
    have complete := cycled.rounds.count.1 rfl
    exact ⟨fun _ => ⟨by rw [publishes]; rfl, _, rfl⟩, fun short => absurd complete short⟩
  | true =>
    have short := cycled.rounds.count.2 rfl
    exact ⟨fun complete => absurd complete short.ne, fun _ => ⟨publishes, rfl⟩⟩

/-- Settles O26: each command of the five steps writes its frame, and nothing else writes. -/
theorem cycleWritesWakeModeQueriesSleep : Obligations.CycleWritesWakeModeQueriesSleep := by
  intro s t h
  obtain ⟨e1, e2, er, e3, r1, r2, r3, ms, aborted, u, cycled, rfl⟩ := exec_runCycle_shows h
  exact cycled.written

/-- Settles O27: the rounds end at the first failed one, with the recovery, or run to the last. -/
theorem cycleRecoversAtMostOnce : Obligations.CycleRecoversAtMostOnce := by
  intro s t h
  obtain ⟨e1, e2, er, e3, r1, r2, r3, ms, aborted, u, cycled, rfl⟩ := exec_runCycle_shows h
  obtain ⟨new, trace, resets⟩ := cycled.resets
  refine ⟨new, trace, ?_⟩
  simp only [cycled.sampler]
  cases aborted with
  | false =>
    have complete := cycled.rounds.count.1 rfl
    exact .inr ⟨rfl, complete, complete, resets⟩
  | true =>
    have short := cycled.rounds.count.2 rfl
    exact .inl ⟨rfl, Nat.le_add_left 1 _, short, rfl, resets⟩

/-! ### A cycle whose frames wait (R121) -/

/-- These bytes are at hand, and no step of the line is to come. -/
def Env.Holds (e : Env) (bytes : List Byte) : Prop := e.line = [] ∧ e.inBuf = bytes

theorem Env.Holds.advance {e : Env} {bytes : List Byte} (h : e.Holds bytes) : e.advance.Holds bytes := by
  rwa [e.advance_of_line_nil h.1]

theorem Env.Holds.clockRead {e : Env} {bytes : List Byte} (h : e.Holds bytes) : e.clockRead.Holds bytes := h.advance

theorem Env.Holds.frameWaits {s : State} {body rest : List Byte} (h : s.env.Holds (header :: (body ++ rest)))
    (h9 : body.length = 9) : FrameWaits s [] body rest :=
  ⟨h.1, h.2, ⟨by simp, by simp⟩, h9⟩

theorem ConfigLegal.of_cfg {s t : State} (hs : ConfigLegal s) (h : t.cfg = s.cfg) : ConfigLegal t := by
  rwa [ConfigLegal, h]

/-- A procedure that returns with CFG kept and these bytes at hand. -/
def Leaves {α : Type} (s : State) (r : Run α) (rest : List Byte) : Prop :=
  ∃ a t, r = .done a t ∧ t.cfg = s.cfg ∧ t.env.Holds rest

/-- A round trip takes the frame at hand for its answer (R94, R156). -/
theorem roundTrip_takes (id : CmdId) {p : List Byte} {s : State} {body rest : List Byte} (hp : p.length ≤ payloadMax)
    (h : s.env.Holds (header :: (body ++ rest))) (h9 : body.length = 9) :
    ∃ t, roundTrip id p s = .done (checkBody body) t ∧ t.cfg = s.cfg ∧ t.sampler = s.sampler ∧
      t.env.Holds rest :=
  ⟨_, roundTrip_waits id p s [] body rest hp (h.frameWaits h9), rfl, rfl, h.1, rfl⟩

/-- A set command takes the frame at hand, be it a valid echo or not. -/
theorem setCommand_takes {id : CmdId} {after : Session → Session} {p : List Byte} {s : State} {body rest : List Byte}
    (hp : p.length ≤ payloadMax) (h : s.env.Holds (header :: (body ++ rest))) (h9 : body.length = 9) :
    Leaves s (setCommand id after p s) rest := by
  obtain ⟨t, ht, hc, _, hr⟩ := roundTrip_takes id hp h h9
  rw [setCommand, ht, Run.andThen_done_eq]
  split <;> exact ⟨_, _, rfl, hc, hr⟩

theorem setSleep_takes (b : Bool) {s : State} {body rest : List Byte} (hs : ConfigLegal s)
    (h : s.env.Holds (header :: (body ++ rest))) (h9 : body.length = 9) : Leaves s (setSleep b s) rest := by
  rw [setSleep, sleepCommand_eq]
  exact setCommand_takes (hs.sleepPayload b) h h9

theorem setReportMode_takes (b : Bool) {s : State} {body rest : List Byte} (hs : ConfigLegal s)
    (h : s.env.Holds (header :: (body ++ rest))) (h9 : body.length = 9) : Leaves s (setReportMode b s) rest := by
  rw [setReportMode, modeCommand_eq]
  exact setCommand_takes (hs.modePayload b) h h9

/-- Wake and mode take two frames, whatever they are: both results are ignored (R112). -/
theorem wakeAndMode_takes {s : State} {b1 b2 rest : List Byte} (hs : ConfigLegal s)
    (h : s.env.Holds (header :: (b1 ++ header :: (b2 ++ rest)))) (h1 : b1.length = 9) (h2 : b2.length = 9) :
    Leaves s (wakeAndMode s) rest := by
  obtain ⟨_, t, ht, ct, rt⟩ := setSleep_takes false (s := s.setPhase .wake) hs h h1
  obtain ⟨_, u, hu, cu, ru⟩ := setReportMode_takes false
    (s := (wait .settle (t.setPhase .settle)).setPhase .mode) (hs.of_cfg ct) rt.advance h2
  exact ⟨(), u, by rw [wakeAndMode, ht, Run.andThen_done_eq, hu, Run.andThen_done_eq], cu.trans ct, ru⟩

theorem backToSleep_takes {s : State} {body rest : List Byte} (hs : ConfigLegal s)
    (h : s.env.Holds (header :: (body ++ rest))) (h9 : body.length = 9) : Leaves s (backToSleep s) rest := by
  obtain ⟨_, t, ht, ct, rt⟩ := setSleep_takes true (s := s.setPhase .sleep) hs h h9
  exact ⟨(), t, by rw [backToSleep, ht, Run.andThen_done_eq], ct, rt⟩

/-- The sealed data report with these fields (R58, R62). -/
def reportFrame (f : ReportFields) : ResponseFrame := sealedFrame typeData f.d0 f.d1 f.d2 f.d3 f.id0 f.id1

/-- The measurement of a data report with these fields (R60). -/
def reported (f : ReportFields) : Measurement := ⟨le16 f.d0 f.d1, le16 f.d2 f.d3⟩

/-- The bytes of these data reports, one frame after another. -/
def reportBytes (fs : List ReportFields) : List Byte := fs.flatMap fun f => header :: frameBody (reportFrame f)

/-- A query takes the report at hand (R99). -/
theorem query_takes {s : State} {f : ReportFields} {rest : List Byte} (hs : ConfigLegal s)
    (h : s.env.Holds (header :: (frameBody (reportFrame f) ++ rest))) :
    ∃ t, query s = .done (.ok (reported f)) t ∧ t.cfg = s.cfg ∧ t.sampler = s.sampler ∧ t.env.Holds rest := by
  obtain ⟨_, _, _, _, query, _⟩ := hs.lengths
  have sealed : checkBody (frameBody (reportFrame f)) = .ok (reportFrame f) := checkBody_sealedFrame ..
  have measured : toMeasurement (reportFrame f) = .ok (reported f) := toMeasurement_dataReport rfl
  obtain ⟨t, ht, hc, hsam, hr⟩ := roundTrip_takes .queryData query h rfl
  refine ⟨t, ?_, hc, hsam, hr⟩
  rw [Machine.query, queryCommand, ht, Run.andThen_done_eq, sealed]
  exact congrArg (Run.done · t) measured

/-- The rounds take one report each and collect its measurement (R113). -/
theorem runRounds_takes {fs : List ReportFields} {rest : List Byte} : ∀ {s : State}, ConfigLegal s →
    s.env.Holds (reportBytes fs ++ rest) →
    ∃ t, runRounds fs.length s = .done () t ∧ t.cfg = s.cfg ∧
      t.sampler.batch = s.sampler.batch ++ fs.map reported ∧ t.env.Holds rest := by
  induction fs with
  | nil => exact fun _ h => ⟨_, rfl, rfl, by simp, h⟩
  | cons f fs ih =>
    intro s hs h
    have begun : (beginRound s).env.Holds (header :: (frameBody (reportFrame f) ++ (reportBytes fs ++ rest))) := by
      have joined : reportBytes (f :: fs) ++ rest =
          header :: (frameBody (reportFrame f) ++ (reportBytes fs ++ rest)) := by simp [reportBytes]
      exact joined ▸ h.advance
    obtain ⟨t, ht, ct, st, rt⟩ := query_takes (s := beginRound s) hs begun
    obtain ⟨u, hu, cu, bu, ru⟩ := ih (s := t.setBatch (t.sampler.batch ++ [reported f])) (hs.of_cfg ct) rt
    refine ⟨u, by rw [List.length_cons, runRounds, ht, Run.andThen_done_eq]; exact hu, cu.trans ct, ?_, ru⟩
    rw [bu]
    simp [st, beginRound, wait_eq]

/-- A cycle takes two frames, a report per round and one more frame, and collects the measurements (R110, R121). -/
theorem cycle_takes {s : State} {b1 b2 b3 rest : List Byte} {fs : List ReportFields} (hs : ConfigLegal s)
    (h1 : b1.length = 9) (h2 : b2.length = 9) (h3 : b3.length = 9) (hn : fs.length = s.cfg.nSamples)
    (h : s.env.Holds (header :: (b1 ++ header :: (b2 ++ (reportBytes fs ++ header :: (b3 ++ rest)))))) :
    ∃ a t, cycle s = .done a t ∧ t.sampler.batch = fs.map reported ∧ t.env.Holds rest := by
  obtain ⟨_, t1, ht1, c1, r1⟩ := wakeAndMode_takes (s := beginCycle s) hs h h1 h2
  have legal1 : ConfigLegal t1 := hs.of_cfg c1
  obtain ⟨t2, ht2, c2, collected, r2⟩ := runRounds_takes legal1 r1
  obtain ⟨_, t3, ht3, c3, r3⟩ := backToSleep_takes (legal1.of_cfg c2) r2 h3
  obtain ⟨_, _, _, _, _, _, _, s1, _⟩ := wakeAndMode_shows ht1
  obtain ⟨_, _, _, _, s3, _⟩ := backToSleep_shows ht3
  have batch : t3.sampler.batch = fs.map reported := by rw [s3]; simp [collected, s1, beginCycle]
  have samples : t1.cfg.nSamples = fs.length := by rw [c1, hn]; rfl
  obtain ⟨t, ht, st, moves⟩ := finishCycle_complete t3 (by rw [batch, c3, c2, samples, List.length_map])
  have steps : cycle s = finishCycle t3 := by
    rw [cycle, ht1, Run.andThen_done_eq, samples, ht2, Run.andThen_done_eq, ht3, Run.andThen_done_eq]
  refine ⟨_, t, steps.trans ht, by rw [st]; exact batch, ?_⟩
  obtain ⟨_, _, he⟩ := moves.answered
  rw [he]
  exact r3.clockRead.advance.clockRead.advance

/-- Settles O24: no round fails, since N measurements were collected. -/
theorem cycleOfGoodRoundsReportsOnce : Obligations.CycleOfGoodRoundsReportsOnce := by
  intro s b1 b2 b3 rest fs hs hl h1 h2 h3 hn hb
  obtain ⟨a, u, hu, batch, holds⟩ := cycle_takes (rest := rest) hs h1 h2 h3 hn
    ⟨hl, by rw [hb]; simp [reportBytes, reportFrame, header, typeData]⟩
  have ht : exec .runCycle s = .next (u.setOutput (cycleOutput a).1 (cycleOutput a).2) := by
    rw [exec_runCycle hs, hu, Run.returns_done]
  obtain ⟨e1, e2, er, e3, r1, r2, r3, ms, aborted, cycled, rfl⟩ := cycle_shows hu
  obtain rfl : ms = fs.map reported := by rw [← batch, cycled.sampler]
  have complete : (fs.map reported).length = s.cfg.nSamples := by rw [List.length_map, hn]
  obtain rfl : aborted = false := by
    by_contra failed
    exact absurd complete (cycled.rounds.count.2 (by simpa using failed)).ne
  obtain ⟨new, trace, publishes⟩ := cycled.published
  refine ⟨_, new, _, _, ht, trace, ?_, ?_, rfl, publishes, ?_, ?_, holds.2⟩
  · simp [Function.comp_def, reported, toNat_le16]
  · simp [Function.comp_def, reported, toNat_le16]
  · simp [cycled.sampler, hn]
  · simp [cycled.sampler]

end Sys2Proof.Machine

namespace Sys2Proof.Machine

/-! ## Waits and clock reads (R141, R142) -/

theorem Reception.no_wait {cfg : Cfg} {evs : List Event} {r : Except FailCode ResponseFrame}
    (h : Reception cfg evs r) : evs.filter isWait = [] := by
  obtain ⟨_, _, waits, _⟩ := h.silent
  exact waits

theorem Reception.no_now {cfg : Cfg} {evs : List Event} {r : Except FailCode ResponseFrame}
    (h : Reception cfg evs r) : evs.filter isNow = [] := by
  obtain ⟨_, _, _, _, unread⟩ := h.silent
  refine List.filter_eq_nil_iff.mpr fun ev hev => ?_
  cases ev with
  | now q => exact absurd hev (unread q)
  | _ => exact Bool.false_ne_true

/-- Outside a cycle nothing reads the clock. -/
theorem Performs.no_now {i : Instr} {s t : State} (h : Performs i s t) (hi : i ≠ .runCycle) :
    ∃ new, t.trace = s.trace ++ new ∧ new.filter isNow = [] := by
  cases h with
  | computed h _ _ => rw [h]; exact ⟨[], by simp, rfl⟩
  | received _ evs r hr h _ => exact ⟨evs, h.trace, hr.no_now⟩
  | commanded id p evs r _ hr h _ => exact ⟨_, h.trace, hr.no_now⟩
  | resynchronized _ h => rw [h]; exact ⟨_, (resynchronize_moves s).trace, rfl⟩
  | cycled hc => exact absurd hc hi

/-! ### The rounds of a cycle (R113) -/

section
variable {cfg : Cfg} {k : Nat} {er : List Event} {ms : List Measurement} {aborted : Bool}

/-- One wait before each round, the failed one included, and the recovery's behind it. -/
theorem Rounds.waits (h : Rounds cfg k er ms aborted) :
    er.filter isWait = List.replicate (ms.length + if aborted then 1 else 0) (.wait .interSample) ++
      List.replicate (if aborted then 1 else 0) (.wait .recovery) := by
  induction h with
  | complete => rfl
  | good k evs rest f m ms aborted hr _ _ ih =>
    simp [List.filter_cons, hr.no_wait, ih, isWait, Nat.succ_add, List.replicate_succ]
  | failed k evs r hr _ => simp [List.filter_cons, hr.no_wait, isWait]

theorem Rounds.no_now (h : Rounds cfg k er ms aborted) : er.filter isNow = [] := by
  induction h with
  | complete => rfl
  | good k evs rest f m ms aborted hr _ _ ih => simp [hr.no_now, ih, isNow]
  | failed k evs r hr _ => simp [hr.no_now, isNow]

end

/-! ### The whole cycle (R116, R119) -/

/-- The last clock answer of a cycle begun here, the one it aligns by: a complete batch was stamped with the answer
before. -/
def Env.alignAnswer (e : Env) (aborted : Bool) : Rat :=
  if aborted then e.clockAnswer else e.clockRead.clockAnswer

theorem Env.alignAnswer_nonneg (e : Env) (aborted : Bool) : 0 ≤ e.alignAnswer aborted := by
  cases aborted with
  | false => exact e.clockRead.clockAnswer_nonneg
  | true => exact e.clockAnswer_nonneg

section
variable {e1 e2 er e3 new : List Event} {r1 r2 r3 : Except FailCode ResponseFrame} {ms : List Measurement}
  {aborted : Bool} {s t : State}

theorem Cycled.waits (h : Cycled e1 e2 er e3 r1 r2 r3 ms aborted s t) (trace : t.trace = s.trace ++ new) :
    new.filter isWait = [.wait .settle] ++ List.replicate t.sampler.round (.wait .interSample) ++
      List.replicate t.sampler.recoveryCount (.wait .recovery) ++
      [.wait (.align (wakeDelay s.cfg.period (s.env.alignAnswer aborted)))] := by
  obtain rfl := List.append_cancel_left (h.moves.trace.symm.trans trace)
  rw [h.sampler]
  simp only [List.filter_append, h.first.no_wait, h.second.no_wait, h.rounds.waits, h.last.no_wait]
  cases aborted <;> simp [List.filter_cons, isWait, Env.alignAnswer]

theorem Cycled.aligns (h : Cycled e1 e2 er e3 r1 r2 r3 ms aborted s t) (trace : t.trace = s.trace ++ new) :
    .wait (.align (wakeDelay s.cfg.period (s.env.alignAnswer aborted))) ∈ new := by
  refine List.mem_of_mem_filter (p := isWait) ?_
  rw [h.waits trace]
  exact List.mem_append_right _ (List.mem_singleton_self _)

/-- The clock is read for the time stamp where no round failed, and for the alignment in any case. -/
theorem Cycled.clockReads (h : Cycled e1 e2 er e3 r1 r2 r3 ms aborted s t) (trace : t.trace = s.trace ++ new) :
    new.filter isNow =
      (if aborted then [] else [.now s.env.clockAnswer]) ++ [.now (s.env.alignAnswer aborted)] := by
  obtain rfl := List.append_cancel_left (h.moves.trace.symm.trans trace)
  simp only [List.filter_append, h.first.no_now, h.second.no_now, h.rounds.no_now, h.last.no_now]
  cases aborted <;> rfl

end

/-! ### The alignment wait (R119) -/

/-- RUN_CYCLE has a meaning only where the period is positive (R11). -/
theorem exec_runCycle_period {s t : State} (h : exec .runCycle s = .next t) : 0 < s.cfg.period := by
  by_contra notPositive
  obtain ⟨_, refused, _⟩ := samplerRefusesIllegalConfig s 0
  cases (refused (execRunCycle_next h).1 (not_lt.mp notPositive)).symm.trans h

/-- The delay a cycle aligns by is the answer of NEXT_WAKE_DELAY. -/
theorem wakeDelay_reaches {s : State} (hp : 0 < s.cfg.period) {n : Rat} (hn : 0 ≤ n) :
    0 < wakeDelay s.cfg.period n ∧ wakeDelay s.cfg.period n ≤ s.cfg.period ∧
      ∃ k : Int, n + wakeDelay s.cfg.period n = k * s.cfg.period := by
  obtain ⟨d, answered, positive, atMost, reaches, _⟩ := nextWakeDelayReachesTheNextMultiple n s hn hp
  obtain rfl : wakeDelay s.cfg.period n = d := by
    simpa [State.returns, State.setOutput] using (exec_nextWakeDelay hp n).symm.trans answered
  exact ⟨positive, atMost, reaches⟩

/-- Settles O28: each of the five steps waits as its rule says, the alignment by the delay of R119. -/
theorem cycleWaitsInOrder : Obligations.CycleWaitsInOrder := by
  intro s t h
  have period := exec_runCycle_period h
  obtain ⟨e1, e2, er, e3, r1, r2, r3, ms, aborted, u, cycled, rfl⟩ := exec_runCycle_shows h
  obtain ⟨positive, atMost, _⟩ := wakeDelay_reaches period (s.env.alignAnswer_nonneg aborted)
  exact ⟨_, _, cycled.moves.trace, cycled.waits cycled.moves.trace, positive, atMost⟩

/-- Settles O56: the time stamp of a complete batch and the alignment read the clock, and nothing outside a cycle
does. -/
theorem cycleReadsTheClockAtMostTwice : Obligations.CycleReadsTheClockAtMostTwice := by
  refine ⟨fun s t h => ?_, fun i s t h hi => (exec_performs h).no_now hi⟩
  have period := exec_runCycle_period h
  obtain ⟨e1, e2, er, e3, r1, r2, r3, ms, aborted, u, cycled, rfl⟩ := exec_runCycle_shows h
  have nonneg := s.env.alignAnswer_nonneg aborted
  obtain ⟨positive, atMost, reaches⟩ := wakeDelay_reaches period nonneg
  have trace := cycled.moves.trace
  refine ⟨_, _, _, trace, nonneg, cycled.aligns trace, positive, atMost, reaches, ?_⟩
  rw [cycled.clockReads trace]
  simp only [cycled.sampler]
  cases aborted with
  | false =>
    have complete := cycled.rounds.count.1 rfl
    exact ⟨fun _ => ⟨_, rfl, s.env.clockAnswer_nonneg, rfl⟩, fun short => absurd complete short⟩
  | true =>
    have short := cycled.rounds.count.2 rfl
    exact ⟨fun complete => absurd complete short.ne, fun _ => rfl⟩

end Sys2Proof.Machine

namespace Sys2Proof.Machine

/-! ## Stale frames: the oldest unread frame is the answer (R156, R96)

What a command makes of a round trip's answer is said by `queryCommand_done`, `setCommand_rejected` and
`echoCommand_rejected`; what is added here is that the answer is the frame that waits, whatever its type. -/

/-- A sealed frame is no valid echo where its type or, checked, its first data byte is wrong (R96). -/
theorem not_validEcho_sealedFrame {cfg : Cfg} {n rtype d0 : Byte}
    (h : rtype ≠ 0xC5 ∨ (cfg.echoIdCheck = true ∧ d0 ≠ n)) (d1 d2 d3 i0 i1 : Byte) :
    ¬ ValidEcho cfg n (.ok (sealedFrame rtype d0 d1 d2 d3 i0 i1)) := by
  rintro ⟨f, hf, htype, hid⟩
  cases hf
  obtain wrongType | ⟨checked, wrongId⟩ := h
  · exact wrongType htype
  · exact wrongId (hid checked)

section
variable {s : State} {rest : List Byte} {rtype d0 d1 d2 d3 i0 i1 : Byte}
  (hw : FrameWaits s [] (frameBody (sealedFrame rtype d0 d1 d2 d3 i0 i1)) rest)
include hw

/-- The round trip consumes the sealed frame at the front of the buffer as its answer and writes no session. -/
theorem roundTrip_answers_front (id : CmdId) {p : List Byte} (hp : p.length ≤ payloadMax) :
    ∃ t, roundTrip id p s = .done (.ok (sealedFrame rtype d0 d1 d2 d3 i0 i1)) t ∧
      t.env.inBuf = rest ∧ t.session = s.session := by
  have hr := roundTrip_waits id p s [] _ rest hp hw
  rw [checkBody_sealedFrame] at hr
  exact ⟨_, hr, rfl, rfl⟩

/-- A query-data command refuses a stale frame that is no data report. -/
theorem queryCommand_stale {p : List Byte} (hp : p.length ≤ payloadMax) (htype : rtype ≠ 0xC0) :
    ∃ t, (queryCommand p s).returns queryOutput = .next t ∧ t.output = some ⟨.queried none, .notDataReport⟩ ∧
      t.env.inBuf = rest ∧ t.session = s.session := by
  obtain ⟨t, ht, hbuf, hs⟩ := roundTrip_answers_front hw .queryData hp
  have other : measured (.ok (sealedFrame rtype d0 d1 d2 d3 i0 i1)) = .error .notDataReport :=
    toMeasurement_other htype
  have hq := queryCommand_done ht
  rw [other] at hq
  exact ⟨_, hq, rfl, hbuf, hs⟩

/-- A set command refuses a stale frame that is no valid echo of its id. -/
theorem setCommand_stale {id : CmdId} {after : Session → Session} {p : List Byte} (hp : p.length ≤ payloadMax)
    (h : rtype ≠ 0xC5 ∨ (s.cfg.echoIdCheck = true ∧ d0 ≠ cmdIdByte id)) :
    ∃ t, (setCommand id after p s).returns flagOutput = .next t ∧ t.output = some ⟨.flag false, .echoInvalid⟩ ∧
      t.env.inBuf = rest ∧ t.session = s.session := by
  obtain ⟨t, ht, hbuf, hs⟩ := roundTrip_answers_front hw id hp
  exact ⟨_, setCommand_rejected ht (not_validEcho_sealedFrame h _ _ _ _ _), rfl, hbuf, hs⟩

/-- A raw echo command refuses a stale frame that is no valid echo of its id. -/
theorem echoCommand_stale {id : CmdId} {p : List Byte} (hp : p.length ≤ payloadMax)
    (h : rtype ≠ 0xC5 ∨ (s.cfg.echoIdCheck = true ∧ d0 ≠ cmdIdByte id)) :
    ∃ t, (echoCommand id p s).returns echoOutput = .next t ∧ t.output = some ⟨.received none, .echoInvalid⟩ ∧
      t.env.inBuf = rest ∧ t.session = s.session := by
  obtain ⟨t, ht, hbuf, hs⟩ := roundTrip_answers_front hw id hp
  exact ⟨_, echoCommand_rejected ht (not_validEcho_sealedFrame h _ _ _ _ _), rfl, hbuf, hs⟩

end

/-- Settles O19: every command takes the frame at the front of the buffer for its answer, and refuses it by its type
or its echoed id. -/
theorem staleFramesAreTakenAsAnswers : Obligations.StaleFramesAreTakenAsAnswers := by
  intro s rest rtype d0 d1 d2 d3 i0 i1 hl hw
  refine ⟨fun htype => ?_, fun b h => ?_, fun b h => ?_, fun i n hi h => ?_⟩
  · obtain ⟨_, _, _, _, hp, _⟩ := hl.lengths
    exact queryCommand_stale hw hp htype
  · rw [exec_setReportMode_eq]
    exact setCommand_stale hw (hl.modePayload b) h
  · rw [exec_setSleep_eq]
    exact setCommand_stale hw (hl.sleepPayload b) h
  · obtain ⟨id, p, hraw, rfl⟩ : ∃ id p, RawEcho s.cfg i id p ∧ n = cmdIdByte id := by
      obtain ⟨b, rfl, rfl⟩ | ⟨rfl, rfl⟩ | ⟨k, a, rfl, hk, rfl⟩ := hi
      · exact ⟨_, _, .workingPeriod b, rfl⟩
      · exact ⟨_, _, .firmware, rfl⟩
      · exact ⟨_, _, .deviceId k a hk, rfl⟩
    rw [hraw.exec_eq]
    exact echoCommand_stale hw (hraw.payload_length hl) h

end Sys2Proof.Machine
